-- ==== Sys2Proof/Word.lean ====
section
/-! DEFINITION. The values the engine moves: bytes, addresses, command words, line-op codes, line
states and levels, with the widths of rules R9, R12 and R55. -/

namespace Sys2Proof

/-- A wire byte, a response byte or a count: P_FRAME_WIDTH = P_QTY_WIDTH = 8 (R9, D11). -/
abbrev Byte := BitVec 8

/-- A device address: P_ADDR_WIDTH = 7 (R9, R41). -/
abbrev Addr := BitVec 7

/-- A host command word: P_CMD_WIDTH = 24 (R9, R55). -/
abbrev CmdWord := BitVec 24

/-- A line-op code `LOP[2:0]` (R64). -/
abbrev LopCode := BitVec 3

/-- An identifier of a platform pin: the spec's opaque type `PinId` (R9, R41). -/
structure PinId where
  id : Nat
deriving DecidableEq, Repr

/-- The electrical level of a line (R19, R27). -/
inductive Level where
  | low
  | high
deriving DecidableEq, Repr, Inhabited

/-- What the engine makes of a line: the GPIO direction of its pin, input for `released`, output
driving low for `assertedLow` (R25). There is no third state: the engine never drives HIGH (R26). -/
inductive LineState where
  | released
  | assertedLow
deriving DecidableEq, Repr, Inhabited

end Sys2Proof
end

