-- ==== Sys2Proof/Config.lean ====
section
/-! DEFINITION. The configuration of an engine instance (R9), the constants the spec settles, and
the free values: constants without a body, of which nothing can be proved. -/

namespace Sys2Proof

/-- `P_BINDING` (R9): where the configuration is bound. No rule depends on it (R10). -/
inductive Binding where
  | compileTime
  | runtime
deriving DecidableEq, Repr, Inhabited

/-- The bus configuration, fixed for the life of an engine instance (R9). -/
structure Cfg where
  dataPin : PinId
  clockPin : PinId
  /-- `P_BIT_DELAY_US`: any natural number of microseconds, 0 allowed (D17). -/
  bitDelayMicros : Nat
  binding : Binding
deriving DecidableEq, Repr

namespace Config

/-- `P_SENTINEL`: what `READ` returns when nothing is pending (R9, R124). -/
def sentinel : Byte := 0xFF#8

/-- What `S.cmd` holds after a reset: the spec leaves it unspecified (R36).
DESIGN CHOICE, unsafe: log 5. -/
def resetCmd : CmdWord := 0x000000#24

/-- The data pin of the instance `State.reset` constructs. DESIGN CHOICE, unsafe: log 2. -/
def dataPin : PinId := ⟨0⟩

/-- The clock pin of the instance `State.reset` constructs. DESIGN CHOICE, unsafe: log 2. -/
def clockPin : PinId := ⟨1⟩

/-- Free value, safe (log 3): the delay of the instance `State.reset` constructs; the spec gives no
default (R9, D17). -/
opaque bitDelayMicros : Nat

/-- Free value, safe (log 3): the binding of the instance `State.reset` constructs (R10). -/
opaque binding : Binding

/-- Free value, safe (log 4): the clock line's state at reset, a draw (`P_RESET_LINES`, R36). -/
opaque resetScl : LineState

/-- Free value, safe (log 4): the data line's state at reset, a draw (`P_RESET_LINES`, R36). -/
opaque resetSda : LineState

/-- Free value, safe (log 6): the SDA level the devices present at the n-th sample of a run (D23). -/
opaque sdaDraw : Nat → Level

/-- Free value, safe (log 7): what the n-th sample of a run returns when it is taken while the
engine itself asserts SDA, which is not valid (R85, D21). -/
opaque invalidRead : Nat → Level

/-- The configuration of the instance `State.reset` constructs. -/
def resetCfg : Cfg :=
  { dataPin := dataPin, clockPin := clockPin, bitDelayMicros := bitDelayMicros, binding := binding }

end Config

end Sys2Proof
end

