-- ==== Sys2Proof/Machine/State.lean ====
section
/-! DEFINITION. The state of the engine (R21), with the interfaces it reads (R64, R69), the
observations it makes (R16, R70), the outcomes that are no next state, and reset (R36). -/

namespace Sys2Proof.Machine

/-- The line operations (R14, R64): what the internal sequences are lists of. -/
inductive LineOp where
  | releaseClock
  | assertClockLow
  | releaseData
  | assertDataLow
  | readData
deriving DecidableEq, Repr

/-- One event of the trace (R16). -/
inductive Event where
  /-- `Op(lop, t)`: a setter line op and the delay in microseconds that followed it. -/
  | op (lop : LineOp) (delay : Nat)
  /-- `Sample(b)`: a `READ_DATA` and the bit it returned. -/
  | sample (b : Bool)
  /-- The response of a command (R16, R32). -/
  | response (data : Byte) (err : Bool)
deriving DecidableEq, Repr

/-- A GPIO direction (R8, R25). -/
inductive PinDir where
  | input
  | output
deriving DecidableEq, Repr

/-- One request to the platform's GPIO capability: its four primitives (R8, R70, R143). -/
inductive GpioCall where
  /-- `set-pin-direction(pin, IN|OUT)` -/
  | setDir (pin : PinId) (dir : PinDir)
  /-- `read-digital(pin)`, with the level it answered -/
  | readPin (pin : PinId) (level : Level)
  /-- `drive-pin-low(pin)`: direction OUT, level LOW -/
  | driveLow (pin : PinId)
  /-- the microsecond delay -/
  | delay (micros : Nat)
deriving DecidableEq, Repr

/-- What the host does to the engine (R69, R151, R153). -/
inductive HostInput where
  /-- A word presented with `cmd_valid = 1` (R69). -/
  | command (w : CmdWord)
  /-- A reset (R151). -/
  | reset
  /-- A word presented, and a reset applied after the engine has made `moves` moves of that
  command: a move is one line op, or the response after the last one (R153). -/
  | commandThenReset (w : CmdWord) (moves : Nat)
deriving DecidableEq, Repr

/-- The engine's state. The first eleven fields are the spec's record `S` (R21) with the local
values of R29; `cfg` is the parameter `Cfg` (R9); the rest are the interfaces and observations. -/
structure State where
  /-- Bytes still to read in the current read transaction (R22). -/
  pendingByteCount : Byte
  /-- STOP wanted after the last byte (R23). -/
  stopOnCompletion : Bool
  /-- Clock line state (R25). -/
  scl : LineState
  /-- Data line state (R25). -/
  sda : LineState
  /-- A command is executing (R29). -/
  busy : Bool
  /-- The latched command word (R31). -/
  cmd : CmdWord
  /-- Index of the next line op in the command's expansion (R29). -/
  sp : Nat
  /-- The bits the last samples returned, the latest in bit 0: the local values of R29 (log 8). -/
  rx : Byte
  /-- The response below belongs to the last completed command (R32). -/
  rspValid : Bool
  /-- Result of the last completed command (R32). -/
  rspData : Byte
  /-- The last command word was illegal (R32). -/
  rspErr : Bool
  /-- The configuration, fixed for the life of the instance (R9; log 2). -/
  cfg : Cfg
  /-- What the host does next, first thing first (R69; log 12). -/
  hostIn : List HostInput
  /-- A line-op code standing on the line driver's interface (R64; log 10). -/
  lopIn : Option LopCode
  /-- The SDA levels the devices present at the coming samples, next one first; when the list is
  used up a level is a free value (D23; log 6). -/
  sdaIn : List Level
  /-- How many samples have been taken (log 6). -/
  draws : Nat
  /-- The trace, oldest event first (R16; log 22). -/
  trace : List Event
  /-- The requests made to the platform, oldest first (R70; log 22). -/
  gpio : List GpioCall
deriving DecidableEq, Repr

/-- Faults: there are none. Errors are response values, "never thrown faults" (R112, R131, R137);
nobody raises one. -/
inductive Fault where
deriving DecidableEq, Repr

/-- Why the model gives no next state. -/
inductive Refusal where
  /-- Raised by an arm of `exec` whose instruction has no meaning yet. Safe: nothing follows. -/
  | notModelled (mnemonic : String)
  /-- Raised by `step` on a configuration with one pin for both lines, to which the spec gives no
  meaning (R11). Safe: no claim about such an engine can be proved. -/
  | samePins
  /-- Raised by `step` when a reserved code stands on the line driver's interface: the driver has no
  operation for it (R65). Safe: nothing follows. -/
  | reservedLineOp (code : LopCode)
  /-- Raised by `step` when the word that the engine accepts, or has latched, is no command: a model
  refuses it (R60, R133, U12). `left` is the state the hardware is left in, with the response that R133
  says it gives (log 9). Safe: no run goes on from it. -/
  | illegalWord (w : CmdWord) (left : State)
deriving DecidableEq, Repr

/-- Construction of an engine instance (R36, R151): the configuration and the line states are the
platform's; the host and the devices have done nothing yet. -/
def State.construct (cfg : Cfg) (scl sda : LineState) : State :=
  { pendingByteCount := 0x00#8
    stopOnCompletion := false
    scl := scl
    sda := sda
    busy := false
    cmd := Config.resetCmd
    sp := 0
    rx := 0x00#8
    rspValid := false
    rspData := 0x00#8
    rspErr := false
    cfg := cfg
    hostIn := []
    lopIn := none
    sdaIn := []
    draws := 0
    trace := []
    gpio := [] }

/-- The machine right after reset: both line states are draws (R36, R152). -/
def State.reset : State := State.construct Config.resetCfg Config.resetScl Config.resetSda

end Sys2Proof.Machine
end

