-- ==== Sys2Proof/Machine/Operands.lean ====
section
/-! DEFINITION. Forming the values a command sends, samples and returns: the address byte, the bits
of a frame in wire order, and the level bit. -/

namespace Sys2Proof.Machine

/-- The address byte `{addr[6:0], rw}` (R43, R116); `rw` is false for write, true for read. -/
def addrByte (addr : Addr) (rw : Bool) : Byte := addr ++ BitVec.ofBool rw

/-- The bits of a wire byte in the order they travel: bit 7 first, bit 0 last (R42). -/
def wireBits (v : Byte) : List Bool := [7, 6, 5, 4, 3, 2, 1, 0].map v.getLsbD

/-- Takes a sampled bit in below the earlier ones, so that after eight samples the first is bit 7
and the last bit 0 (R42, R106). -/
def shiftIn (v : Byte) (b : Bool) : Byte := v <<< 1 ||| (BitVec.ofBool b).zeroExtend 8

/-- The bit `READ_DATA` returns for a level: 1 for HIGH, 0 for LOW (R80). -/
def levelBit : Level → Bool
  | .low => false
  | .high => true

/-- `zext_8` of one bit (R12). -/
def zext8 (b : Bool) : Byte := (BitVec.ofBool b).zeroExtend 8

/-- The level of a line: the wired-AND of the engine and the devices (R27). -/
def lineLevel (st : LineState) (deviceAsserts : Bool) : Level :=
  if st = .assertedLow ∨ deviceAsserts = true then .low else .high

end Sys2Proof.Machine
end

