-- ==== Sys2Proof/Machine/Flags.lean ====
section
/-! DEFINITION. The block has no flags or condition codes (R33). Its only flag-like result is the
acknowledge bit of a frame it sends; here is that bit and the response values made of it (R66). -/

namespace Sys2Proof.Machine

/-- The acknowledge bit: the latest sample, 0 = LOW = ACK, 1 = HIGH = NACK (R33, R104). -/
def ackBit (rx : Byte) : Bool := rx.getLsbD 0

/-- Response of `BEGIN_TX` and `WRITE`: 0x00 on ACK, 0x01 on NACK (R66, R117, R119). -/
def ackResponse (rx : Byte) : Byte := zext8 (ackBit rx)

/-- Response of `REQUEST_FROM`: the quantity on ACK, 0x00 on NACK (R66, R123). -/
def requestResponse (qty rx : Byte) : Byte := if ackBit rx then 0x00#8 else qty

end Sys2Proof.Machine
end

