-- ==== Sys2Proof/Machine/Ops.lean ====
section
/-! DEFINITION. The shared operations: the platform's primitives, sampling, accepting a command word,
writing a response, the outcome of an illegal word (the block's only error that is no response of a
command; it has no exception to take and none to return from, R131, R137, R138), reset, and the
writes of the Transaction State. -/

namespace Sys2Proof.Machine

/-- `cmd_ready` (R69). -/
def cmdReady (s : State) : Bool := !s.busy

/-- What the host can read: `cmd_ready`, `rsp_valid`, `rsp_data`, `rsp_err`, and nothing else of the
engine (R34, R69, R156). -/
def hostOutputs (s : State) : Bool × Bool × Byte × Bool :=
  (cmdReady s, s.rspValid, s.rspData, s.rspErr)

/-- The output enables `scl_oe` and `sda_oe` of a wire-level realisation (R70): 1 is asserted low; the
output value is constantly LOW. -/
def outputEnables (s : State) : Bool × Bool := (s.scl == .assertedLow, s.sda == .assertedLow)

/-- The SDA level the devices present at the `k`-th coming sample (D23; log 6). -/
def upcoming (s : State) (k : Nat) : Level := (s.sdaIn[k]?).getD (Config.sdaDraw (s.draws + k))

/-- `GpioRead(Cfg.P_DATA_PIN)` (R80): the wired-AND of R27 while SDA is released; while the engine
asserts SDA the read is not valid and its result any value (R85; log 7). -/
def sdaLevel (s : State) : Level :=
  match s.sda with
  | .released => lineLevel .released (upcoming s 0 == .low)
  | .assertedLow => Config.invalidRead s.draws

/-- Acceptance of a command word (R69): latched, busy, at line op 0, the old response gone. -/
def accept (w : CmdWord) (s : State) : State :=
  { s with cmd := w, busy := true, sp := 0, rx := 0x00#8, rspValid := false }

/-- Completion of a command (R29, R32): the response is written, the engine is idle and the
command's local values are gone. -/
def respond (data : Byte) (err : Bool) (s : State) : State :=
  { s with
    rspData := data
    rspErr := err
    rspValid := true
    busy := false
    rx := 0x00#8
    trace := s.trace ++ [.response data err] }

/-- `return v` (R15): every legal command completes with `rsp_err = 0` (R133). -/
def complete (v : Byte) (s : State) : State := respond v false s

/-- `raise Illegal(cmd)` (R15, R60, R133): no line op, `rsp_data = 0x00`, `rsp_err = 1`. It is the
hardware's effect; `step` refuses the word and hands out this state with the refusal (log 9). -/
def completeIllegal (s : State) : State := respond 0x00#8 true s

/-- `REQUEST_FROM`'s write of the Transaction State (R123). -/
def storeTransaction (qty : Byte) (stop : Bool) (s : State) : State :=
  { s with pendingByteCount := qty, stopOnCompletion := stop }

/-- `READ`'s decrement, which never wraps (R22, R124). -/
def decrementPending (s : State) : State :=
  { s with pendingByteCount :=
      if s.pendingByteCount = 0x00#8 then 0x00#8 else s.pendingByteCount - 1#8 }

/-- Reset of an existing instance (R36, R151, R153): the fields of R36 take their values with no
line op and no response; the line states stay what the pins' directions are; the configuration,
the host, the devices and the observations are not the engine's to clear (log 13). DESIGN CHOICE
(log 13): the line states are kept when the engine is idle too, of which R152 says only that they are
a draw at reset. -/
def resetEngine (s : State) : State :=
  { s with
    pendingByteCount := 0x00#8
    stopOnCompletion := false
    busy := false
    cmd := Config.resetCmd
    sp := 0
    rx := 0x00#8
    rspValid := false
    rspData := 0x00#8
    rspErr := false
    lopIn := none }

end Sys2Proof.Machine
end

