-- ==== Sys2Proof/Machine/LineDriver.lean ====
section
/-! DEFINITION. `i2c_line_driver` (40_line_driver.md): the five line operations, performing a list of
them, and the meanings of the five line-op rows. Every line op advances `S.sp` and makes its trace
event (R29). -/

namespace Sys2Proof.Machine

/-- `RELEASE_CLOCK` (R75, R76). -/
def releaseClock (s : State) : State :=
  { s with
    scl := .released
    sp := s.sp + 1
    trace := s.trace ++ [.op .releaseClock s.cfg.bitDelayMicros]
    gpio := s.gpio ++ [.setDir s.cfg.clockPin .input, .delay s.cfg.bitDelayMicros] }

/-- `ASSERT_CLOCK_LOW` (R75, R77). -/
def assertClockLow (s : State) : State :=
  { s with
    scl := .assertedLow
    sp := s.sp + 1
    trace := s.trace ++ [.op .assertClockLow s.cfg.bitDelayMicros]
    gpio := s.gpio ++ [.driveLow s.cfg.clockPin, .delay s.cfg.bitDelayMicros] }

/-- `RELEASE_DATA` (R75, R78). -/
def releaseData (s : State) : State :=
  { s with
    sda := .released
    sp := s.sp + 1
    trace := s.trace ++ [.op .releaseData s.cfg.bitDelayMicros]
    gpio := s.gpio ++ [.setDir s.cfg.dataPin .input, .delay s.cfg.bitDelayMicros] }

/-- `ASSERT_DATA_LOW` (R75, R79). -/
def assertDataLow (s : State) : State :=
  { s with
    sda := .assertedLow
    sp := s.sp + 1
    trace := s.trace ++ [.op .assertDataLow s.cfg.bitDelayMicros]
    gpio := s.gpio ++ [.driveLow s.cfg.dataPin, .delay s.cfg.bitDelayMicros] }

/-- `READ_DATA` (R80): no delay and no line state; the bit it returns to its caller is taken into
the caller's local value `rx` (R29; log 8). -/
def readData (s : State) : State :=
  { s with
    sp := s.sp + 1
    rx := shiftIn s.rx (levelBit (sdaLevel s))
    sdaIn := s.sdaIn.tail
    draws := s.draws + 1
    trace := s.trace ++ [.sample (levelBit (sdaLevel s))]
    gpio := s.gpio ++ [.readPin s.cfg.dataPin (sdaLevel s)] }

/-- The line driver: one line op (R14, R64). -/
def lineOp : LineOp → State → State
  | .releaseClock => releaseClock
  | .assertClockLow => assertClockLow
  | .releaseData => releaseData
  | .assertDataLow => assertDataLow
  | .readData => readData

/-- A sequence `A; B; C`: each line op done, delay and all, before the next begins (R17, R49). -/
def perform : List LineOp → State → State
  | [], s => s
  | op :: ops, s => perform ops (lineOp op s)

/-- `RELEASE_CLOCK` (R76). -/
def execReleaseClock (s : State) : Host.Outcome State Fault Refusal := .next (releaseClock s)

/-- `ASSERT_CLOCK_LOW` (R77). -/
def execAssertClockLow (s : State) : Host.Outcome State Fault Refusal := .next (assertClockLow s)

/-- `RELEASE_DATA` (R78). -/
def execReleaseData (s : State) : Host.Outcome State Fault Refusal := .next (releaseData s)

/-- `ASSERT_DATA_LOW` (R79). -/
def execAssertDataLow (s : State) : Host.Outcome State Fault Refusal := .next (assertDataLow s)

/-- `READ_DATA` (R80). -/
def execReadData (s : State) : Host.Outcome State Fault Refusal := .next (readData s)

end Sys2Proof.Machine
end

