-- ==== Sys2Proof/Machine/ByteTxRx.lean ====
section
/-! DEFINITION. `i2c_byte_tx_rx` (42_byte_tx_rx.md): frames and acknowledge, each a fixed list of line
ops (R71, R100). What a sequence returns is in the samples it takes. -/

namespace Sys2Proof.Machine

/-- `PULSE_CLOCK` (R101). -/
def pulseClockOps : List LineOp := [.releaseClock, .assertClockLow]

/-- The data operation of a sent bit: a 1 is released, a 0 driven low; issued for every bit, changed
or not (R102, D30). -/
def dataOp (b : Bool) : LineOp := if b then .releaseData else .assertDataLow

/-- `WRITE_BIT(b)` (R102). -/
def writeBitOps (b : Bool) : List LineOp := [dataOp b, .releaseClock, .assertClockLow]

/-- `ACK_CAPTURE` (R104): returns the one sample. -/
def ackCaptureOps : List LineOp := [.releaseData, .releaseClock, .readData, .assertClockLow]

/-- `WRITE_BYTE(v)` (R103): bit 7 first, then the acknowledge; returns the one sample. -/
def writeByteOps (v : Byte) : List LineOp := (wireBits v).flatMap writeBitOps ++ ackCaptureOps

/-- One bit of `READ_BYTE` (R106). -/
def readBitOps : List LineOp := [.releaseClock, .readData, .assertClockLow]

/-- `READ_BYTE` (R106): releases SDA (D8), then eight bits; returns the eight samples, the first in
bit 7. -/
def readByteOps : List LineOp := .releaseData :: (List.replicate 8 readBitOps).flatten

/-- `SEND_ACK` (R107): SDA stays asserted after it (D9). -/
def sendAckOps : List LineOp := .assertDataLow :: pulseClockOps

/-- `SEND_NACK` (R108). -/
def sendNackOps : List LineOp := .releaseData :: pulseClockOps

end Sys2Proof.Machine
end

