-- ==== Sys2Proof/Machine/StartStop.lean ====
section
/-! DEFINITION. `i2c_start_stop_gen` (41_start_stop_gen.md): the sequences that open and close a
transaction, each a fixed list of line ops (R71). -/

namespace Sys2Proof.Machine

/-- `RELEASE_BOTH` (R90): the clock first (D7). -/
def releaseBothOps : List LineOp := [.releaseClock, .releaseData]

/-- `START` (R91). -/
def startOps : List LineOp := releaseBothOps ++ [.assertDataLow, .assertClockLow]

/-- `STOP` (R94). -/
def stopOps : List LineOp := [.assertDataLow, .releaseClock, .releaseData]

end Sys2Proof.Machine
end

