-- ==== Sys2Proof/Machine/Commands.lean ====
section
/-! DEFINITION. The host commands (43_commands.md). A meaning is applied to the state right after the
command's acceptance (R69; `accept`), performs the command's line ops and ends with its response.
No command looks at the phase (R37) and none fails (R112). -/

namespace Sys2Proof.Machine

/-- `START; WRITE_BYTE(addrByte(addr, rw))`: the line ops of `BEGIN_TX` and `REQUEST_FROM`
(R117, R123). -/
def addressOps (addr : Addr) (rw : Bool) : List LineOp := startOps ++ writeByteOps (addrByte addr rw)

/-- The line ops of `END_TX` (R122). -/
def endTxOps (stop : Bool) : List LineOp := if stop then stopOps else []

/-- What `READ` performs after the byte, given the count after the decrement (R124). -/
def readTailOps (pending : Byte) (stop : Bool) : List LineOp :=
  if pending ≠ 0x00#8 then sendAckOps else sendNackOps ++ endTxOps stop

/-- `BEGIN` (R113). -/
def execBegin (s : State) : Host.Outcome State Fault Refusal :=
  .next (complete 0x00#8 (perform releaseBothOps s))

/-- `END` (R114): defined as `BEGIN` is. -/
def execEnd (s : State) : Host.Outcome State Fault Refusal :=
  .next (complete 0x00#8 (perform releaseBothOps s))

/-- `BEGIN_TX addr` (R117). -/
def execBeginTx (addr : Addr) (s : State) : Host.Outcome State Fault Refusal :=
  let t := perform (addressOps addr false) s
  .next (complete (ackResponse t.rx) t)

/-- `WRITE byte` (R119). -/
def execWrite (byte : Byte) (s : State) : Host.Outcome State Fault Refusal :=
  let t := perform (writeByteOps byte) s
  .next (complete (ackResponse t.rx) t)

/-- `END_TX stop` (R122). -/
def execEndTx (stop : Bool) (s : State) : Host.Outcome State Fault Refusal :=
  .next (complete 0x00#8 (perform (endTxOps stop) s))

/-- `REQUEST_FROM addr, qty, stop` (R123): the Transaction State is stored before the START and
stays stored on a NACK (R125). -/
def execRequestFrom (addr : Addr) (qty : Byte) (stop : Bool) (s : State) :
    Host.Outcome State Fault Refusal :=
  let t := perform (addressOps addr true) (storeTransaction qty stop s)
  .next (complete (requestResponse qty t.rx) t)

/-- `READ` (R124). -/
def execRead (s : State) : Host.Outcome State Fault Refusal :=
  if s.pendingByteCount = 0x00#8 then .next (complete Config.sentinel s)
  else
    let r := perform readByteOps s
    let d := decrementPending r
    .next (complete r.rx (perform (readTailOps d.pendingByteCount d.stopOnCompletion) d))

end Sys2Proof.Machine
end

