-- ==== Sys2Proof/Syntax.lean ====
section
/-! DEFINITION. The instructions: one constructor for each row of spec/opcode_table.json, the seven
host commands (R57) and the five line operations (R64). -/

namespace Sys2Proof

/-- The rows of the opcode table. An operand is a bit vector of its field's width (R61), so every
term stands for exactly one word. -/
inductive Instr where
  /-- `BEGIN` (R113). -/
  | cmdBegin
  /-- `END` (R114). -/
  | cmdEnd
  /-- `BEGIN_TX addr` (R117). -/
  | beginTx (addr : Addr)
  /-- `WRITE byte` (R119). -/
  | write (byte : Byte)
  /-- `END_TX stop` (R122). -/
  | endTx (stop : Bool)
  /-- `REQUEST_FROM addr, qty, stop` (R123). -/
  | requestFrom (addr : Addr) (qty : Byte) (stop : Bool)
  /-- `READ` (R124). -/
  | read
  /-- `RELEASE_CLOCK` (R76). -/
  | releaseClock
  /-- `ASSERT_CLOCK_LOW` (R77). -/
  | assertClockLow
  /-- `RELEASE_DATA` (R78). -/
  | releaseData
  /-- `ASSERT_DATA_LOW` (R79). -/
  | assertDataLow
  /-- `READ_DATA` (R80). -/
  | readData
deriving DecidableEq, Repr

end Sys2Proof
end

