-- ==== Sys2Proof/Machine/Dispatch.lean ====
section
/-! DEFINITION. One arm per instruction. -/

namespace Sys2Proof.Machine

-- The seven host commands (R57), then the five line ops (R64).
def exec (i : Instr) (s : State) : Host.Outcome State Fault Refusal :=
  match i with
  | .cmdBegin => Sys2Proof.Machine.execBegin s
  | .cmdEnd => Sys2Proof.Machine.execEnd s
  | .beginTx addr => Sys2Proof.Machine.execBeginTx addr s
  | .write byte => Sys2Proof.Machine.execWrite byte s
  | .endTx stop => Sys2Proof.Machine.execEndTx stop s
  | .requestFrom addr qty stop => Sys2Proof.Machine.execRequestFrom addr qty stop s
  | .read => Sys2Proof.Machine.execRead s
  | .releaseClock => Sys2Proof.Machine.execReleaseClock s
  | .assertClockLow => Sys2Proof.Machine.execAssertClockLow s
  | .releaseData => Sys2Proof.Machine.execReleaseData s
  | .assertDataLow => Sys2Proof.Machine.execAssertDataLow s
  | .readData => Sys2Proof.Machine.execReadData s

end Sys2Proof.Machine
end

