-- ==== Sys2Proof/WellFormed.lean ====
section
/-! DEFINITION. What the spec refuses before anything runs: a configuration with one pin for both
lines (R11), engines that share a pin (R144), an assembler operand out of its range (R67), and a
line op presented as a host command (R71). An `Instr` needs no check of its operands: each is a bit
vector of its field's width (R61). -/

namespace Sys2Proof

/-- The two lines are on two pins; any other configuration is refused (R11, D18). -/
def Cfg.pinsDistinct (c : Cfg) : Bool := c.dataPin != c.clockPin

/-- The pins an engine instance owns (R70). -/
def Cfg.pins (c : Cfg) : List PinId := [c.dataPin, c.clockPin]

/-- Two engine instances have no pin in common (host duty HD1, R144, D26). DESIGN CHOICE (log 11): R144
calls disjoint pairs independent and refuses one shared pair; two pairs with just one pin in common,
of which it says nothing, are refused as a shared pair is. -/
def Cfg.disjoint (a b : Cfg) : Bool := a.pins.all fun p => !b.pins.contains p

/-- Every instance is configured with two pins and shares none with another (R11, R144; log 11). -/
def instancesOk : List Cfg → Bool
  | [] => true
  | c :: cs => c.pinsDistinct && cs.all c.disjoint && instancesOk cs

/-- The host can issue the seven commands; a line op has only an internal code (R64, R71). -/
def Instr.hostIssuable : Instr → Bool
  | .cmdBegin => true
  | .cmdEnd => true
  | .beginTx _ => true
  | .write _ => true
  | .endTx _ => true
  | .requestFrom _ _ _ => true
  | .read => true
  | .releaseClock => false
  | .assertClockLow => false
  | .releaseData => false
  | .assertDataLow => false
  | .readData => false

/-- An assembler address operand, 0 to 127 (R67). -/
def addrOperandOk (n : Nat) : Bool := n < 128

/-- An assembler byte or quantity operand, 0 to 255 (R67). -/
def byteOperandOk (n : Nat) : Bool := n < 256

/-- An assembler stop operand, 0 or 1 (R67). -/
def stopOperandOk (n : Nat) : Bool := n < 2

end Sys2Proof
end

