-- ==== Sys2Proof/Decode.lean ====
section
/-! DEFINITION. Decoding of command words (R55 to R61) and of line-op codes (R64, R65), both total,
and after it the encoder, written from the field layout of R55 and the codes of R64. -/

namespace Sys2Proof

/-- One row of the opcode map (R57): a word `w` is the row's when `w & mask = pattern`. -/
structure Row where
  mask : CmdWord
  pattern : CmdWord
deriving DecidableEq, Repr

/-- The test of R57 and R59. -/
def Row.hits (r : Row) (w : CmdWord) : Bool := w &&& r.mask == r.pattern

def rowBegin : Row := ⟨0xFFFFFF#24, 0x100000#24⟩
def rowEnd : Row := ⟨0xFFFFFF#24, 0x200000#24⟩
def rowBeginTx : Row := ⟨0xFF80FF#24, 0x300000#24⟩
def rowWrite : Row := ⟨0xFFFF00#24, 0x400000#24⟩
def rowEndTx : Row := ⟨0xFEFFFF#24, 0x500000#24⟩
def rowRequestFrom : Row := ⟨0xFE8000#24, 0x600000#24⟩
def rowRead : Row := ⟨0xFFFFFF#24, 0x700000#24⟩

/-- The rows of R57 in their order. -/
def commandRows : List Row :=
  [rowBegin, rowEnd, rowBeginTx, rowWrite, rowEndTx, rowRequestFrom, rowRead]

/-- `ADDR = cmd[14:8]` (R55, R61). -/
def addrField (w : CmdWord) : Addr := w.extractLsb' 8 7

/-- `DATA = cmd[7:0]`, a byte or a quantity (R55, R61). -/
def dataField (w : CmdWord) : Byte := w.extractLsb' 0 8

/-- `S = cmd[16]`, sendStop (R55, R61). -/
def stopField (w : CmdWord) : Bool := w.getLsbD 16

/-- Decoding of a command word (R59, operands of R61); `none` is `raise Illegal(w)` (R60). -/
def decodeCommand (w : CmdWord) : Option Instr :=
  if rowBegin.hits w then some .cmdBegin
  else if rowEnd.hits w then some .cmdEnd
  else if rowBeginTx.hits w then some (.beginTx (addrField w))
  else if rowWrite.hits w then some (.write (dataField w))
  else if rowEndTx.hits w then some (.endTx (stopField w))
  else if rowRequestFrom.hits w then some (.requestFrom (addrField w) (dataField w) (stopField w))
  else if rowRead.hits w then some .read
  else none

/-- Decoding of a line-op code (R64); `none` for the reserved codes 100, 101 and 111 (R65). -/
def decodeLop (c : LopCode) : Option Instr :=
  if c = 0b000#3 then some .releaseClock
  else if c = 0b001#3 then some .assertClockLow
  else if c = 0b010#3 then some .releaseData
  else if c = 0b011#3 then some .assertDataLow
  else if c = 0b110#3 then some .readData
  else none

/-- A table row of at most one byte is a line-op code; any longer one is a command word. -/
def isLopWidth (nbits : Nat) : Bool := nbits ≤ 8

/-- The code that `w` puts on the line driver's interface; a number of more than three bits is no
code and is given as the reserved code 111. -/
def lopOfNat (w : Nat) : LopCode := if w < 8 then BitVec.ofNat 3 w else 0b111#3

/-- The word that `w` puts on the host interface; a number of more than 24 bits is no word and is
given as the illegal word 0x000000. -/
def commandOfNat (w : Nat) : CmdWord := if w < 2 ^ 24 then BitVec.ofNat 24 w else 0x000000#24

/-- The instruction whose bits, numbered as spec/opcode_table.json numbers them, are `w`. -/
def decodeTableWord (nbits w : Nat) : Option Instr :=
  if isLopWidth nbits then decodeLop (lopOfNat w) else decodeCommand (commandOfNat w)

/-- A command word from its fields `OP RSV S Z ADDR DATA`, RSV and Z zero (R55). -/
def packCommand (op : BitVec 4) (s : Bool) (addr : Addr) (data : Byte) : CmdWord :=
  op ++ 0#3 ++ BitVec.ofBool s ++ 0#1 ++ addr ++ data

/-- The word of a host command (R57, R58); a line op has none (R71). -/
def encodeCommand : Instr → Option CmdWord
  | .cmdBegin => some (packCommand 0x1#4 false 0 0)
  | .cmdEnd => some (packCommand 0x2#4 false 0 0)
  | .beginTx addr => some (packCommand 0x3#4 false addr 0)
  | .write byte => some (packCommand 0x4#4 false 0 byte)
  | .endTx stop => some (packCommand 0x5#4 stop 0 0)
  | .requestFrom addr qty stop => some (packCommand 0x6#4 stop addr qty)
  | .read => some (packCommand 0x7#4 false 0 0)
  | .releaseClock => none
  | .assertClockLow => none
  | .releaseData => none
  | .assertDataLow => none
  | .readData => none

/-- The code `{RD, LINE, ASSERT}` (R64). -/
def packLop (rd line assert : Bool) : LopCode :=
  BitVec.ofBool rd ++ BitVec.ofBool line ++ BitVec.ofBool assert

/-- The code of a line op (R64); a host command has none. -/
def encodeLop : Instr → Option LopCode
  | .cmdBegin => none
  | .cmdEnd => none
  | .beginTx _ => none
  | .write _ => none
  | .endTx _ => none
  | .requestFrom _ _ _ => none
  | .read => none
  | .releaseClock => some (packLop false false false)
  | .assertClockLow => some (packLop false false true)
  | .releaseData => some (packLop false true false)
  | .assertDataLow => some (packLop false true true)
  | .readData => some (packLop true true false)

/-- The bits of an instruction's table row, and those bits as a number: a command word is 24 bits, a
line-op code 3 (R63). -/
def encodeTableWord (i : Instr) : Nat × Nat :=
  match encodeCommand i, encodeLop i with
  | some w, _ => (24, w.toNat)
  | none, some c => (3, c.toNat)
  | none, none => (0, 8)

end Sys2Proof
end

