-- ==== Sys2Proof/Machine/Sequencer.lean ====
section
/-! DEFINITION. The engine in small steps (R29): a command in progress is the latched word `S.cmd`,
the index `S.sp` and the local value `rx`; one move performs the line op at that index, or, when the
expansion is exhausted, writes the response. This is the machine a reset in the middle of a command
is applied to (R153). -/

namespace Sys2Proof.Machine

/-- The line ops of a command (R29, R30). For `READ` the state is asked for the count and the stop
bit: before the byte whether anything is pending, after it what remains (R124). A line op is no
command and has no expansion (R71). -/
def expansion (i : Instr) (s : State) : List LineOp :=
  match i with
  | .cmdBegin => releaseBothOps
  | .cmdEnd => releaseBothOps
  | .beginTx addr => addressOps addr false
  | .write byte => writeByteOps byte
  | .endTx stop => endTxOps stop
  | .requestFrom addr _ _ => addressOps addr true
  | .read =>
    if s.sp = 0 ∧ s.pendingByteCount = 0x00#8 then []
    else readByteOps ++ readTailOps s.pendingByteCount s.stopOnCompletion
  | .releaseClock => []
  | .assertClockLow => []
  | .releaseData => []
  | .assertDataLow => []
  | .readData => []

/-- The assignments that stand in a command's pseudocode before the line op at the index `S.sp`:
`REQUEST_FROM` stores the Transaction State before the first (R123), `READ` decrements before the
first line op after the byte (R124). -/
def beforeOp (i : Instr) (s : State) : State :=
  match i with
  | .cmdBegin => s
  | .cmdEnd => s
  | .beginTx _ => s
  | .write _ => s
  | .endTx _ => s
  | .requestFrom _ qty stop => if s.sp = 0 then storeTransaction qty stop s else s
  | .read => if s.sp = readByteOps.length then decrementPending s else s
  | .releaseClock => s
  | .assertClockLow => s
  | .releaseData => s
  | .assertDataLow => s
  | .readData => s

/-- The response of a command whose expansion is exhausted (R66). -/
def finalResponse (i : Instr) (s : State) : Byte :=
  match i with
  | .cmdBegin => 0x00#8
  | .cmdEnd => 0x00#8
  | .beginTx _ => ackResponse s.rx
  | .write _ => ackResponse s.rx
  | .endTx _ => 0x00#8
  | .requestFrom _ qty _ => requestResponse qty s.rx
  | .read => if s.sp = 0 then Config.sentinel else s.rx
  | .releaseClock => 0x00#8
  | .assertClockLow => 0x00#8
  | .releaseData => 0x00#8
  | .assertDataLow => 0x00#8
  | .readData => 0x00#8

/-- One move of an instruction in progress: its next line op, or its response (R29). -/
def moveOf (i : Instr) (s : State) : State :=
  let t := beforeOp i s
  match (expansion i t)[t.sp]? with
  | some op => lineOp op t
  | none => complete (finalResponse i t) t

/-- One move of the command in progress. An illegal word completes at once (R133); `step` refuses it
with the state so reached. -/
def advance (s : State) : State :=
  match decodeCommand s.cmd with
  | some i => moveOf i s
  | none => completeIllegal s

/-- At most `n` moves of the command in progress; an idle engine makes none. -/
def moves : Nat → State → State
  | 0, s => s
  | n + 1, s => if s.busy then moves n (advance s) else s

end Sys2Proof.Machine
end

