-- ==== Sys2Proof/Machine/Fetch.lean ====
section
/-! DEFINITION. What the engine does next: which instruction a step runs and in which state, or what
it does when it runs none. -/

namespace Sys2Proof.Machine

/-- What a step finds. -/
inductive Fetched where
  /-- It runs the instruction `i` in the state `s`. -/
  | run (i : Instr) (s : State)
  /-- It runs none; this is its outcome. -/
  | done (o : Host.Outcome State Fault Refusal)

/-- The outcome of engine activity that the word `w` leads to and that leaves the state `t`: a next state
if `w` is legal, a refusal with that state if it is not (R60, R133; log 9). -/
def wordOutcome (w : CmdWord) (t : State) : Host.Outcome State Fault Refusal :=
  match decodeCommand w with
  | some _ => .next t
  | none => .refused (.illegalWord w t)

/-- A word is accepted (R59, R69): a legal one is run; an illegal one completes at once with its error
response, which the model refuses (R60, R133). -/
def fetchCommand (w : CmdWord) (s : State) : Fetched :=
  match decodeCommand w with
  | some i => .run i (accept w s)
  | none => .done (wordOutcome w (completeIllegal (accept w s)))

/-- The command in progress makes its next move (R29). -/
def fetchMove (s : State) : Fetched := .done (wordOutcome s.cmd (advance s))

/-- A word is accepted and a reset comes after `n` moves (R153). -/
def fetchThenReset (w : CmdWord) (n : Nat) (s : State) : Fetched :=
  .done (wordOutcome w (resetEngine (moves n (accept w s))))

/-- A code on the line driver's interface is taken: the driver performs it, or has no operation for
it (R64, R65). -/
def fetchLop (c : LopCode) (s : State) : Fetched :=
  match decodeLop c with
  | some i => .run i s
  | none => .done (.refused (.reservedLineOp c))

/-- What the host's requests make the engine do. A reset acts at any time (R151, R153); a command in
progress makes its next move and no request is looked at meanwhile (R31, R69, R147); an idle engine
accepts the word presented (R69), or rests when there is none (R157). -/
def fetchHost (s : State) : Fetched :=
  match s.hostIn with
  | .reset :: rest => .done (.next (resetEngine { s with hostIn := rest }))
  | .command w :: rest =>
    if s.busy then fetchMove s else fetchCommand w { s with hostIn := rest }
  | .commandThenReset w n :: rest =>
    if s.busy then fetchMove s else fetchThenReset w n { s with hostIn := rest }
  | [] => if s.busy then fetchMove s else .done (.next s)

/-- What the engine does next. A configuration with one pin for both lines has no meaning (R11). -/
def fetch (s : State) : Fetched :=
  if s.cfg.pinsDistinct then
    match s.lopIn with
    | some c => fetchLop c { s with lopIn := none }
    | none => fetchHost s
  else .done (.refused .samePins)

/-- `s` with an instruction's bits where the next step fetches: a line-op code on the line driver's
interface, a command word at the head of the host's requests to an idle engine (log 12). -/
def placeWord (s : State) (nbits w : Nat) : State :=
  if isLopWidth nbits then { s with lopIn := some (lopOfNat w) }
  else { s with lopIn := none, busy := false, hostIn := .command (commandOfNat w) :: s.hostIn }

end Sys2Proof.Machine
end

