-- ==== Sys2Proof/Machine/Assembler.lean ====
section
/-! DEFINITION. The assembly syntax of R67 and R68: one command a line, a mnemonic and its operands
separated by commas, `;` to the end of the line a comment, numbers decimal or `0x` hexadecimal. It is
how a host's program is written; the engine sees the words only. The lexical details that R67 leaves
open are log 26. -/

namespace Sys2Proof.Machine

/-- The word of a mnemonic with its operands; an operand out of its range, or a wrong number of
operands, is an assembly error (R67). A stop operand left out is 1 (R62, R68). DESIGN CHOICE (log 26):
a mnemonic is recognised in the capitals of R67 only. -/
def assemble (mnemonic : String) (operands : List Nat) : Option CmdWord :=
  match operands with
  | [] =>
    if mnemonic = "BEGIN" then encodeCommand .cmdBegin
    else if mnemonic = "END" then encodeCommand .cmdEnd
    else if mnemonic = "READ" then encodeCommand .read
    else if mnemonic = "END_TX" then encodeCommand (.endTx true)
    else none
  | [a] =>
    if mnemonic = "BEGIN_TX" ∧ addrOperandOk a then encodeCommand (.beginTx (BitVec.ofNat 7 a))
    else if mnemonic = "WRITE" ∧ byteOperandOk a then encodeCommand (.write (BitVec.ofNat 8 a))
    else if mnemonic = "END_TX" ∧ stopOperandOk a then encodeCommand (.endTx (a == 1))
    else none
  | [a, q] =>
    if mnemonic = "REQUEST_FROM" ∧ addrOperandOk a ∧ byteOperandOk q then
      encodeCommand (.requestFrom (BitVec.ofNat 7 a) (BitVec.ofNat 8 q) true)
    else none
  | [a, q, p] =>
    if mnemonic = "REQUEST_FROM" ∧ addrOperandOk a ∧ byteOperandOk q ∧ stopOperandOk p then
      encodeCommand (.requestFrom (BitVec.ofNat 7 a) (BitVec.ofNat 8 q) (p == 1))
    else none
  | _ :: _ :: _ :: _ :: _ => none

/-- A blank of a line. DESIGN CHOICE (log 26): a space or a tab, and no other character. -/
def isBlank (c : Char) : Bool := c == ' ' || c == '\t'

/-- Blanks at both ends removed. -/
def trimBlanks (cs : List Char) : List Char :=
  ((cs.dropWhile isBlank).reverse.dropWhile isBlank).reverse

/-- The pieces between the commas of a text; a text of one piece has no comma. -/
def splitCommas : List Char → List (List Char)
  | [] => [[]]
  | c :: cs =>
    if c = ',' then [] :: splitCommas cs
    else
      match splitCommas cs with
      | [] => [[c]]
      | p :: ps => (c :: p) :: ps

/-- The value of a digit in a base of 10 or 16. DESIGN CHOICE (log 26): a hexadecimal digit in either
case. -/
def digit (base : Nat) (c : Char) : Option Nat :=
  let n :=
    if '0' ≤ c ∧ c ≤ '9' then c.toNat - 48
    else if 'a' ≤ c ∧ c ≤ 'f' then c.toNat - 87
    else if 'A' ≤ c ∧ c ≤ 'F' then c.toNat - 55
    else base
  if n < base then some n else none

/-- The value of digits, most significant first, after the value `v` of the digits before them. -/
def digits (base v : Nat) : List Char → Option Nat
  | [] => some v
  | c :: cs => (digit base c).bind fun n => digits base (v * base + n) cs

/-- A number, decimal or `0x` hexadecimal (R67). DESIGN CHOICE (log 26): the prefix with a small `x`
only, and zeros before a number allowed. -/
def number : List Char → Option Nat
  | [] => none
  | '0' :: 'x' :: c :: cs => digits 16 0 (c :: cs)
  | c :: cs => digits 10 0 (c :: cs)

/-- The numbers of a list of pieces, if each is one. -/
def numbers : List (List Char) → Option (List Nat)
  | [] => some []
  | p :: ps => (number (trimBlanks p)).bind fun n => (numbers ps).map (n :: ·)

/-- The words of one line: none for a line with no command, one for a command, an assembly error
otherwise (R67). DESIGN CHOICE (log 26): a line that is empty or holds only blanks and a comment is no
command and no error, and blanks may stand around the mnemonic and every operand. -/
def assembleLine (line : List Char) : Option (List CmdWord) :=
  match trimBlanks (line.takeWhile (· != ';')) with
  | [] => some []
  | c :: cs =>
    let mnemonic := String.ofList ((c :: cs).takeWhile (!isBlank ·))
    match trimBlanks ((c :: cs).dropWhile (!isBlank ·)) with
    | [] => (assemble mnemonic []).map ([·])
    | d :: ds =>
      ((numbers (splitCommas (d :: ds))).bind (assemble mnemonic)).map ([·])

/-- The words of a program, line by line (R67). -/
def assembleLines : List (List Char) → Option (List CmdWord)
  | [] => some []
  | l :: ls => (assembleLine l).bind fun w => (assembleLines ls).map (w ++ ·)

/-- What a host issues that runs a program: its words in order (R69). -/
def hostProgram (ws : List CmdWord) : List HostInput := ws.map .command

end Sys2Proof.Machine
end

