-- ==== Sys2Proof/Machine/Observe.lean ====
section
/-! DEFINITION. What the trace and the GPIO requests say of a run (R16, R18, R70): counts, delay, bus
conditions, clock edges, the levels on SDA at them, and pin directions. A stretch of events is read
from the line states it starts in. -/

namespace Sys2Proof.Machine

/-- The two line states (R25). -/
structure Lines where
  scl : LineState
  sda : LineState
deriving DecidableEq, Repr

/-- The line states of a state. -/
def linesOf (s : State) : Lines := ⟨s.scl, s.sda⟩

/-- What a line op makes of the line states (R76 to R80). -/
def Lines.after (l : Lines) : LineOp → Lines
  | .releaseClock => { l with scl := .released }
  | .assertClockLow => { l with scl := .assertedLow }
  | .releaseData => { l with sda := .released }
  | .assertDataLow => { l with sda := .assertedLow }
  | .readData => l

/-- What an event makes of the line states; a sample and a response change none. -/
def Lines.afterEvent (l : Lines) : Event → Lines
  | .op lop _ => l.after lop
  | .sample _ => l
  | .response _ _ => l

/-- An event with its delay erased; a sample and a response have none (R16, R84). -/
def Event.eraseDelay : Event → Event
  | .op lop _ => .op lop 0
  | .sample b => .sample b
  | .response v e => .response v e

/-- A GPIO request with its delay erased; only the delay primitive has one (R70, R84). -/
def GpioCall.eraseDelay : GpioCall → GpioCall
  | .setDir p d => .setDir p d
  | .readPin p l => .readPin p l
  | .driveLow p => .driveLow p
  | .delay _ => .delay 0

/-- The lines that devices hold low throughout a stretch (R8, R96, R161). -/
structure Held where
  scl : Bool
  sda : Bool
deriving DecidableEq, Repr

/-- No device asserts a line. -/
def Held.none : Held := ⟨false, false⟩

/-- A bus condition (R18). -/
inductive Condition where
  | start
  | stop
deriving DecidableEq, Repr

/-- The condition a change of line states makes: SDA falling with SCL HIGH is a START, rising a STOP
(R18, R78, R79). -/
def conditionOf (h : Held) (l l' : Lines) : List Condition :=
  match lineLevel l.scl h.scl, lineLevel l'.scl h.scl, lineLevel l.sda h.sda,
    lineLevel l'.sda h.sda with
  | .high, .high, .high, .low => [.start]
  | .high, .high, .low, .high => [.stop]
  | _, _, _, _ => []

/-- The conditions a stretch of events makes, in order (R18). -/
def conditions (h : Held) (l : Lines) : List Event → List Condition
  | [] => []
  | e :: es => conditionOf h l (l.afterEvent e) ++ conditions h (l.afterEvent e) es

/-- The SDA line state at each rising edge of SCL, in order, no device stretching the clock (R105,
R110). -/
def sdaAtEdges (l : Lines) : List Event → List LineState
  | [] => []
  | e :: es =>
    (if l.scl = .assertedLow ∧ (l.afterEvent e).scl = .released then [l.sda] else []) ++
      sdaAtEdges (l.afterEvent e) es

/-- Rising edges of SCL in a stretch (R165). -/
def risingEdges (l : Lines) (es : List Event) : Nat := (sdaAtEdges l es).length

/-- A phase of a line of some microseconds before the phases of the rest, one with the next if that
is of the same state. -/
def addPhase (st : LineState) (t : Nat) : List (LineState × Nat) → List (LineState × Nat)
  | [] => [(st, t)]
  | (st', t') :: ps => if st' = st then (st, t + t') :: ps else (st, t) :: (st', t') :: ps

/-- The phases of SCL in a stretch, each with its nominal length (R110, R111, R166): a line op's delay
is spent in the state it makes. -/
def sclPhases (l : Lines) : List Event → List (LineState × Nat)
  | [] => []
  | .op lop t :: es => addPhase (l.after lop).scl t (sclPhases (l.after lop) es)
  | .sample _ :: es => sclPhases l es
  | .response _ _ :: es => sclPhases l es

/-- The transitions in a stretch: the events that change a line state (R16). -/
def transitions (l : Lines) : List Event → Nat
  | [] => 0
  | e :: es => (if l.afterEvent e = l then 0 else 1) + transitions (l.afterEvent e) es

/-- Every sample of a stretch is taken while the engine releases SDA (R85, R109). -/
def samplesValid (l : Lines) : List Event → Bool
  | [] => true
  | .sample _ :: es => l.sda == .released && samplesValid l es
  | .op lop _ :: es => samplesValid (l.after lop) es
  | .response _ _ :: es => samplesValid l es

/-- The line ops of a stretch, in order (R16: a sample is a `READ_DATA`). -/
def opsOf : List Event → List LineOp
  | [] => []
  | .op lop _ :: es => lop :: opsOf es
  | .sample _ :: es => .readData :: opsOf es
  | .response _ _ :: es => opsOf es

/-- Samples in a stretch (R165). -/
def sampleCount : List Event → Nat
  | [] => 0
  | .op _ _ :: es => sampleCount es
  | .sample _ :: es => sampleCount es + 1
  | .response _ _ :: es => sampleCount es

/-- The nominal delay of a stretch in microseconds (R84, R165). -/
def totalDelay : List Event → Nat
  | [] => 0
  | .op _ t :: es => t + totalDelay es
  | .sample _ :: es => totalDelay es
  | .response _ _ :: es => totalDelay es

/-- The events of a list of line ops with delay `d`, the sample number `k` and those after it
returning the bits of `b` (R16). -/
def eventsOf (d : Nat) (b : Nat → Bool) (k : Nat) : List LineOp → List Event
  | [] => []
  | .readData :: ops => .sample (b k) :: eventsOf d b (k + 1) ops
  | .releaseClock :: ops => .op .releaseClock d :: eventsOf d b k ops
  | .assertClockLow :: ops => .op .assertClockLow d :: eventsOf d b k ops
  | .releaseData :: ops => .op .releaseData d :: eventsOf d b k ops
  | .assertDataLow :: ops => .op .assertDataLow d :: eventsOf d b k ops

/-- The bit the `k`-th coming sample returns when it is valid (R80). -/
def upcomingBit (s : State) (k : Nat) : Bool := levelBit (upcoming s k)

/-- The direction the last request of a list gave a pin, if one did (R25, R70). -/
def lastDir (pin : PinId) : List GpioCall → Option PinDir
  | [] => none
  | .setDir p d :: cs => (lastDir pin cs).or (if p = pin then some d else none)
  | .driveLow p :: cs => (lastDir pin cs).or (if p = pin then some .output else none)
  | .readPin _ _ :: cs => lastDir pin cs
  | .delay _ :: cs => lastDir pin cs

/-- The line state a pin direction is (R25). -/
def dirState : PinDir → LineState
  | .input => .released
  | .output => .assertedLow

/-- A request that keeps the open-drain rule: no pin is made an output but by `drive-pin-low` (R26,
R143). -/
def GpioCall.openDrain : GpioCall → Bool
  | .setDir _ dir => dir == .input
  | .readPin _ _ => true
  | .driveLow _ => true
  | .delay _ => true

/-- The GPIO requests of a list of line ops, the sample number `k` and those after it seeing the
levels of `lv` (R70, R76 to R80). -/
def gpioOf (c : Cfg) (lv : Nat → Level) (k : Nat) : List LineOp → List GpioCall
  | [] => []
  | .readData :: ops => .readPin c.dataPin (lv k) :: gpioOf c lv (k + 1) ops
  | .releaseClock :: ops =>
    .setDir c.clockPin .input :: .delay c.bitDelayMicros :: gpioOf c lv k ops
  | .assertClockLow :: ops =>
    .driveLow c.clockPin :: .delay c.bitDelayMicros :: gpioOf c lv k ops
  | .releaseData :: ops => .setDir c.dataPin .input :: .delay c.bitDelayMicros :: gpioOf c lv k ops
  | .assertDataLow :: ops => .driveLow c.dataPin :: .delay c.bitDelayMicros :: gpioOf c lv k ops

/-- The local value `rx` after a list of line ops whose samples return the bits of `b` from number
`k` on (R29, R106). -/
def rxOf (b : Nat → Bool) (k : Nat) (rx : Byte) : List LineOp → Byte
  | [] => rx
  | .readData :: ops => rxOf b (k + 1) (shiftIn rx (b k)) ops
  | .releaseClock :: ops => rxOf b k rx ops
  | .assertClockLow :: ops => rxOf b k rx ops
  | .releaseData :: ops => rxOf b k rx ops
  | .assertDataLow :: ops => rxOf b k rx ops

/-- The samples of a list of line ops. -/
def samplesIn : List LineOp → Nat
  | [] => 0
  | .readData :: ops => samplesIn ops + 1
  | .releaseClock :: ops => samplesIn ops
  | .assertClockLow :: ops => samplesIn ops
  | .releaseData :: ops => samplesIn ops
  | .assertDataLow :: ops => samplesIn ops

/-- Every sample in a list of line ops is taken while the engine releases SDA (R85, R109). -/
def opsValid (l : Lines) : List LineOp → Bool
  | [] => true
  | .readData :: ops => l.sda == .released && opsValid l ops
  | .releaseClock :: ops => opsValid (l.after .releaseClock) ops
  | .assertClockLow :: ops => opsValid (l.after .assertClockLow) ops
  | .releaseData :: ops => opsValid (l.after .releaseData) ops
  | .assertDataLow :: ops => opsValid (l.after .assertDataLow) ops

/-- The line states after a list of line ops. -/
def Lines.afterOps (l : Lines) (ops : List LineOp) : Lines := ops.foldl Lines.after l

end Sys2Proof.Machine
end

