-- ==== Sys2Proof/Safety.lean ====
section
/-! DEFINITION. What counts as a safe run: the invariants of the engine (open drain, R26; line states
are pin directions, R25), and the host's duties (R155), stated in the conceptual phases of R37. -/

namespace Sys2Proof

open Machine

/-- Every request the engine has made keeps the open-drain rule (R26). -/
abbrev OpenDrain (s : State) : Prop := ∀ c ∈ s.gpio, c.openDrain = true

/-- The two line states are the directions the engine last gave its two pins (R25). -/
def LinesArePins (s : State) : Prop :=
  (∀ d, lastDir s.cfg.clockPin s.gpio = some d → s.scl = dirState d) ∧
    ∀ d, lastDir s.cfg.dataPin s.gpio = some d → s.sda = dirState d

/-- The engine has a configuration with a meaning and no line-op code stands outside a command: what
`step` asks of a state before it looks at the host's requests. -/
abbrev AtHost (s : State) : Prop := s.cfg.pinsDistinct = true ∧ s.lopIn = none

/-- An engine that accepts a command (`cmd_ready = 1`, R69). -/
abbrev Ready (s : State) : Prop := AtHost s ∧ s.busy = false

/-- The state a command leaves, every field of it: it has performed the line ops `ops`, left the
lines in `scl` and `sda` and the Transaction State in `pending` and `stop`, and responded with `v`
and no error. The configuration, the latched word and the interfaces are as they were. -/
def commandResult (ops : List LineOp) (scl sda : LineState) (pending : Byte) (stop : Bool) (v : Byte)
    (s : State) : State :=
  { pendingByteCount := pending
    stopOnCompletion := stop
    scl := scl
    sda := sda
    busy := false
    cmd := s.cmd
    sp := s.sp + ops.length
    rx := 0x00#8
    rspValid := true
    rspData := v
    rspErr := false
    cfg := s.cfg
    hostIn := s.hostIn
    lopIn := s.lopIn
    sdaIn := s.sdaIn.drop (samplesIn ops)
    draws := s.draws + samplesIn ops
    trace := s.trace ++ eventsOf s.cfg.bitDelayMicros (upcomingBit s) 0 ops ++ [.response v false]
    gpio := s.gpio ++ gpioOf s.cfg (upcoming s) 0 ops }

/-- The events of a list of line ops of state `s`, its samples being the coming ones. -/
def eventsFrom (s : State) (ops : List LineOp) : List Event :=
  eventsOf s.cfg.bitDelayMicros (upcomingBit s) 0 ops

/-- The byte the eight coming samples are, the first of them bit 7 (R42, R106). -/
def upcomingByte (s : State) : Byte :=
  BitVec.ofFnLE fun j : Fin 8 => upcomingBit s (7 - j.val)

/-- The bit a line state sends: 1 is released, 0 driven low (R102). -/
def lineOfBit (b : Bool) : LineState := if b then .released else .assertedLow

/-- A refusal with `f` applied to the state that it carries; only that of an illegal word carries one. -/
def Machine.Refusal.onState (f : State → State) (r : Refusal) : Refusal :=
  match r with
  | .illegalWord w t => .illegalWord w (f t)
  | r => r

/-- `s` with the binding `b` (R10). -/
def rebind (b : Binding) (s : State) : State := { s with cfg := { s.cfg with binding := b } }

/-- The conceptual phases of R37; the engine holds none of them. -/
inductive Phase where
  | idle
  | writeOpen
  | readOpen
deriving DecidableEq, Repr

/-- The phase after a command that found the count `before` and left the count `left` (R37): only the
`READ` that brings the count to 0 ends a read transaction, so a `READ` that finds 0 moves nothing. -/
def Phase.after (p : Phase) (before left : Byte) : Instr → Phase
  | .cmdBegin => p
  | .cmdEnd => p
  | .beginTx _ => .writeOpen
  | .write _ => p
  | .endTx _ => if p = .writeOpen then .idle else p
  | .requestFrom _ _ _ => .readOpen
  | .read => if before ≠ 0x00#8 ∧ left = 0x00#8 then .idle else p
  | .releaseClock => p
  | .assertClockLow => p
  | .releaseData => p
  | .assertDataLow => p
  | .readData => p

/-- The commands that keep the phase order in a phase: those the state machine of R37 has an arrow for.
DESIGN CHOICE (log 21): `BEGIN` and `END`, which the state machine and HD4 give no place, keep the
order in IDLE only, although R126 names them among the ways to end a zero-quantity read. -/
def Phase.allows (p : Phase) : Instr → Bool
  | .cmdBegin => p == .idle
  | .cmdEnd => p == .idle
  | .beginTx _ => p == .idle
  | .write _ => p == .writeOpen
  | .endTx _ => p == .writeOpen
  | .requestFrom _ _ _ => p == .idle
  | .read => p == .readOpen
  | .releaseClock => false
  | .assertClockLow => false
  | .releaseData => false
  | .assertDataLow => false
  | .readData => false

/-- What the host remembers of its commands so far: the phase, whether it has issued `BEGIN`, and
whether the last address or data byte was refused. -/
structure HostView where
  phase : Phase
  begun : Bool
  nacked : Bool
deriving DecidableEq, Repr

/-- A host that has issued nothing. -/
def HostView.initial : HostView := ⟨.idle, false, false⟩

/-- The duties a host can keep command by command (R155): `BEGIN` before anything else (HD3,
R154), the phase order (HD4), no `READ` after a `REQUEST_FROM` that returned 0 (HD5), and after a
NACK nothing but an abort (HD6; a NACKed read is closed with `END_TX 1`, R125).
DESIGN CHOICE (log 21): where R37 and HD4 say nothing, a host may issue `BEGIN` and `END` in IDLE and
in no other phase; and it may close a NACKed read with `END_TX 0` as well, of which R125 says nothing. -/
def HostView.mayIssue (v : HostView) (i : Instr) : Bool :=
  match i with
  | .cmdBegin => v.phase.allows i
  | .cmdEnd => v.begun && v.phase.allows i
  | .endTx _ => v.begun && (v.nacked || v.phase.allows i)
  | .beginTx _ => v.begun && !v.nacked && v.phase.allows i
  | .write _ => v.begun && !v.nacked && v.phase.allows i
  | .requestFrom _ _ _ => v.begun && !v.nacked && v.phase.allows i
  | .read => v.begun && !v.nacked && v.phase.allows i
  | .releaseClock => false
  | .assertClockLow => false
  | .releaseData => false
  | .assertDataLow => false
  | .readData => false

/-- What the host remembers after a command it issued in the state `s` that left the state `t`, read
off the response and the count it can keep itself (R37, R66, R156). `END_TX 1` closes a refused read
too (R125). DESIGN CHOICE (log 21): so does `END_TX 0`, of which R125 says nothing.
DESIGN CHOICE (log 21): a `REQUEST_FROM` of quantity 0, whose response tells the host nothing of the
acknowledge (R126), counts as refused, so that `END_TX` closes it and no `BEGIN_TX` or `REQUEST_FROM`
follows it before that, although R126 names a START among the ways to end it. -/
def HostView.after (v : HostView) (i : Instr) (s t : State) : HostView :=
  let phase := v.phase.after s.pendingByteCount t.pendingByteCount i
  match i with
  | .cmdBegin => { v with begun := true }
  | .beginTx _ => { v with phase := phase, nacked := t.rspData != 0x00#8 }
  | .write _ => { v with nacked := v.nacked || t.rspData != 0x00#8 }
  | .requestFrom _ _ _ => { v with phase := phase, nacked := t.rspData == 0x00#8 }
  | .endTx _ => { v with phase := if v.nacked then .idle else phase, nacked := false }
  | .read => { v with phase := phase }
  | .cmdEnd => v
  | .releaseClock => v
  | .assertClockLow => v
  | .releaseData => v
  | .assertDataLow => v
  | .readData => v

end Sys2Proof
end

