-- ==== Sys2Proof/Certificates/Slice0/Obligations.lean ====
section
/-! DEFINITION. The statements for the provers, from the numbered rules of spec/. -/

open Sys2Proof Sys2Proof.Machine

/-! ### Encoding and decoding (30_encoding.md) -/

/-- One word of every row, written out from the patterns of R58 and the codes of R64 (vectors V1 to
V3), decodes to the instruction it stands for. -/
def Obligations.TableWordsDecode : Prop :=
  decodeTableWord 24 0x100000 = some .cmdBegin ∧
  decodeTableWord 24 0x200000 = some .cmdEnd ∧
  decodeTableWord 24 0x305000 = some (.beginTx 0x50#7) ∧
  decodeTableWord 24 0x4000FF = some (.write 0xFF#8) ∧
  decodeTableWord 24 0x500000 = some (.endTx false) ∧
  decodeTableWord 24 0x510000 = some (.endTx true) ∧
  decodeTableWord 24 0x615003 = some (.requestFrom 0x50#7 3#8 true) ∧
  decodeTableWord 24 0x700000 = some .read ∧
  decodeTableWord 8 0b000 = some .releaseClock ∧
  decodeTableWord 8 0b001 = some .assertClockLow ∧
  decodeTableWord 8 0b010 = some .releaseData ∧
  decodeTableWord 8 0b011 = some .assertDataLow ∧
  decodeTableWord 8 0b110 = some .readData

/-- Decoding the encoding of any instruction, with any operands, gives it back. -/
def Obligations.DecodeOfEncode : Prop :=
  ∀ i : Instr, decodeTableWord (encodeTableWord i).1 (encodeTableWord i).2 = some i

/-- A word or code that decodes is the encoding of what it decodes to: no bit of it is ignored, and
only the seven commands have words, only the five line ops codes (R60, R63, R71). -/
def Obligations.DecodedWordIsEncoding : Prop :=
  (∀ w i, decodeCommand w = some i → encodeCommand i = some w ∧ i.hostIssuable = true) ∧
    ∀ c i, decodeLop c = some i → encodeLop i = some c ∧ i.hostIssuable = false

/-- A word is legal exactly when it matches a row, and it matches at most one (R57, R59). -/
def Obligations.RowsExclusive : Prop :=
  ∀ w : CmdWord,
    (decodeCommand w ≠ none ↔ ∃ r ∈ commandRows, w &&& r.mask = r.pattern) ∧
    ∀ r₁ ∈ commandRows, ∀ r₂ ∈ commandRows,
      w &&& r₁.mask = r₁.pattern → w &&& r₂.mask = r₂.pattern → r₁ = r₂

/-- The words of R72, by its own formulas, and its example. -/
def Obligations.CommandWordFormulas : Prop :=
  encodeCommand .cmdBegin = some 0x100000#24 ∧
  encodeCommand .cmdEnd = some 0x200000#24 ∧
  (∀ a : Addr, encodeCommand (.beginTx a) = some (0x300000#24 ||| a.zeroExtend 24 <<< 8)) ∧
  (∀ b : Byte, encodeCommand (.write b) = some (0x400000#24 ||| b.zeroExtend 24)) ∧
  (∀ p : Bool, encodeCommand (.endTx p) =
    some (0x500000#24 ||| (BitVec.ofBool p).zeroExtend 24 <<< 16)) ∧
  (∀ (a : Addr) (q : Byte) (p : Bool), encodeCommand (.requestFrom a q p) =
    some (0x600000#24 ||| (BitVec.ofBool p).zeroExtend 24 <<< 16 ||| a.zeroExtend 24 <<< 8 |||
      q.zeroExtend 24)) ∧
  encodeCommand .read = some 0x700000#24 ∧
  encodeCommand (.requestFrom 0x50#7 3#8 true) = some 0x615003#24

/-- Operands come from the fields of R61: `addr = cmd[14:8]`, byte and quantity `cmd[7:0]`, sendStop
`cmd[16]`. -/
def Obligations.OperandFields : Prop :=
  ∀ w : CmdWord,
    (∀ a, decodeCommand w = some (.beginTx a) → a.toNat = w.toNat / 2 ^ 8 % 2 ^ 7) ∧
    (∀ b, decodeCommand w = some (.write b) → b.toNat = w.toNat % 2 ^ 8) ∧
    (∀ p, decodeCommand w = some (.endTx p) → p = w.getLsbD 16) ∧
    (∀ a q p, decodeCommand w = some (.requestFrom a q p) →
      a.toNat = w.toNat / 2 ^ 8 % 2 ^ 7 ∧ q.toNat = w.toNat % 2 ^ 8 ∧ p = w.getLsbD 16)

/-- Which words are illegal (R60, first sentence): OP 0x0 or 0x8 to 0xF, or a nonzero bit in a field
the opcode does not use, RSV and Z included. -/
def Obligations.IllegalWordsExactly : Prop :=
  ∀ w : CmdWord,
    decodeCommand w = none ↔
      (w.extractLsb' 20 4 = 0x0#4 ∨ 0x8#4 ≤ w.extractLsb' 20 4 ∨
        w.extractLsb' 17 3 ≠ 0#3 ∨ w.getLsbD 15 = true ∨
        (w.getLsbD 16 = true ∧ w.extractLsb' 20 4 ≠ 0x5#4 ∧ w.extractLsb' 20 4 ≠ 0x6#4) ∨
        (w.extractLsb' 8 7 ≠ 0#7 ∧ w.extractLsb' 20 4 ≠ 0x3#4 ∧ w.extractLsb' 20 4 ≠ 0x6#4) ∨
        (w.extractLsb' 0 8 ≠ 0#8 ∧ w.extractLsb' 20 4 ≠ 0x4#4 ∧ w.extractLsb' 20 4 ≠ 0x6#4))

/-- The assembler: the word of every mnemonic with its operands, an operand out of its range being an
error; a stop operand left out is 1, whatever the others; and no other form assembles (R62, R67,
R68; that a mnemonic in small letters does not is log 26). -/
def Obligations.AssemblerForms : Prop :=
  assemble "BEGIN" [] = some 0x100000#24 ∧ assemble "END" [] = some 0x200000#24 ∧
  assemble "READ" [] = some 0x700000#24 ∧
  assemble "END_TX" [] = some 0x510000#24 ∧ assemble "END_TX" [] = assemble "END_TX" [1] ∧
  (∀ a q, assemble "REQUEST_FROM" [a, q] = assemble "REQUEST_FROM" [a, q, 1]) ∧
  (∀ p, assemble "END_TX" [p] = if p < 2 then encodeCommand (.endTx (p == 1)) else none) ∧
  (∀ a q p, assemble "REQUEST_FROM" [a, q, p] =
    if a < 128 ∧ q < 256 ∧ p < 2 then
      encodeCommand (.requestFrom (BitVec.ofNat 7 a) (BitVec.ofNat 8 q) (p == 1))
    else none) ∧
  (∀ a, assemble "BEGIN_TX" [a] =
    if a < 128 then encodeCommand (.beginTx (BitVec.ofNat 7 a)) else none) ∧
  (∀ b, assemble "WRITE" [b] =
    if b < 256 then encodeCommand (.write (BitVec.ofNat 8 b)) else none) ∧
  ∀ m ops w, assemble m ops = some w →
    (m, ops.length) ∈ [("BEGIN", 0), ("END", 0), ("READ", 0), ("END_TX", 0), ("BEGIN_TX", 1),
      ("WRITE", 1), ("END_TX", 1), ("REQUEST_FROM", 2), ("REQUEST_FROM", 3)] ∧
    ∃ i, decodeCommand w = some i

/-- The reserved line-op codes 100, 101 and 111 are refused, and no instruction has them (R65). -/
def Obligations.ReservedLineOpsRefused : Prop :=
  ∀ c : LopCode, c = 0b100#3 ∨ c = 0b101#3 ∨ c = 0b111#3 →
    decodeLop c = none ∧ (∀ i, encodeLop i ≠ some c) ∧
    ∀ s : State, s.cfg.pinsDistinct = true → s.lopIn = some c →
      step s = .refused (.reservedLineOp c)

/-! ### The step (10_state.md, 30_encoding.md, 70_reset_and_hazards.md) -/

/-- A ready engine to which the host presents a word that decodes to `i` runs `i` in the state right
after acceptance: the word latched, busy, at line op 0, the old response no longer valid, and the
word taken from the host (R29, R69). -/
def Obligations.StepRunsDecodedCommand : Prop :=
  ∀ s w rest i, Ready s → s.hostIn = .command w :: rest → decodeCommand w = some i →
    step s = exec i
      { s with hostIn := rest, cmd := w, busy := true, sp := 0, rx := 0x00#8, rspValid := false }

/-- A line-op code on the line driver's interface runs as its line op, whether or not a command is in
progress (R64). -/
def Obligations.StepRunsLineOp : Prop :=
  ∀ s c i, s.cfg.pinsDistinct = true → s.lopIn = some c → decodeLop c = some i →
    step s = exec i { s with lopIn := none }

/-- Wherever it stands, an instruction placed for the next step is what the next step runs. Where it is
placed is log 12; that the accepted state of a command has `rx` 0 is log 8. -/
def Obligations.PlacedWordRuns : Prop :=
  ∀ (s : State) (nbits w : Nat) (i : Instr), s.cfg.pinsDistinct = true →
    decodeTableWord nbits w = some i →
    step (s.withFetchWord nbits w) = exec i
      (if nbits ≤ 8 then { s with lopIn := none }
        else { s with
          lopIn := none, busy := true, cmd := BitVec.ofNat 24 w, sp := 0, rx := 0x00#8,
          rspValid := false })

/-- An illegal word is refused, with the state the hardware is left in: the word is accepted, no line
op is performed and it completes at once with `rsp_data = 0x00` and `rsp_err = 1`; the Transaction
State, the lines and the GPIO pins are untouched (R60, R133; that the refusal carries that state is
log 9, that the word is latched log 14, that `rx` is 0 log 8). -/
def Obligations.IllegalWordResponse : Prop :=
  ∀ s w rest, Ready s → s.hostIn = .command w :: rest → decodeCommand w = none →
    step s = .refused (.illegalWord w
      { s with
        hostIn := rest, cmd := w, sp := 0, rx := 0x00#8, busy := false
        rspValid := true, rspData := 0x00#8, rspErr := true
        trace := s.trace ++ [.response 0x00#8 true] })

/-- A step of a busy engine makes the next move of its command (R29): it performs one line op and
advances `sp`, or it writes the response and the engine is idle. What the host presents has no
effect on that: two engines that differ only in the commands presented make the same move, the
latched word stays, and the commands stay presented (R31). A latched word that is no command is refused in the same way with both (log 9;
no run brings a busy engine there). -/
def Obligations.BusyIgnoresCommands : Prop :=
  ∀ (s : State) (xs ys : List HostInput), AtHost s → s.busy = true →
    xs.head? ≠ some .reset → ys.head? ≠ some .reset →
    ∃ t, t = advance { s with hostIn := xs } ∧ t.hostIn = xs ∧ t.cmd = s.cmd ∧
      ((t.busy = true ∧ t.sp = s.sp + 1 ∧
          ∃ e, t.trace = s.trace ++ [e] ∧ (opsOf [e]).length = 1) ∨
        (t.busy = false ∧ t.sp = s.sp ∧ t.rspValid = true ∧
          t.trace = s.trace ++ [.response t.rspData t.rspErr])) ∧
      if decodeCommand s.cmd = none then
        step { s with hostIn := xs } = .refused (.illegalWord s.cmd t) ∧
          step { s with hostIn := ys } = .refused (.illegalWord s.cmd { t with hostIn := ys })
      else
        step { s with hostIn := xs } = .next t ∧
          step { s with hostIn := ys } = .next { t with hostIn := ys }

/-- An engine that is idle and to which the host issues nothing stays as it is (R157). -/
def Obligations.IdleRests : Prop :=
  ∀ s, Ready s → s.hostIn = [] → step s = .next s

/-- A configuration with one pin for both lines is refused, whatever the state (R11). -/
def Obligations.SamePinsRefused : Prop :=
  ∀ s : State, s.cfg.dataPin = s.cfg.clockPin → step s = .refused .samePins

/-- Construction of an instance, for every configuration and every draw of the lines: the values of
R36, no line op performed. (What `cmd` holds is the model's choice and is not stated.) -/
def Obligations.ResetValues : Prop :=
  (∀ cfg scl sda, ∃ s, s = State.construct cfg scl sda ∧
    s.pendingByteCount = 0 ∧ s.stopOnCompletion = false ∧ s.busy = false ∧ s.sp = 0 ∧
    s.rspValid = false ∧ s.rspData = 0x00#8 ∧ s.rspErr = false ∧
    s.scl = scl ∧ s.sda = sda ∧ s.cfg = cfg ∧ s.trace = [] ∧ s.gpio = []) ∧
  ∃ cfg scl sda, State.reset = State.construct cfg scl sda

/-- A reset. Applied after some moves of a command it abandons it: no line op and no response follow,
the lines are as the last line op left them, and the fields of R36 have their values (R153; the
number of moves is log 13); if the command was still in progress it never responded. Applied between
two steps, to an idle or a busy engine, it sets the fields of R36 and changes nothing else but `cmd`,
which R36 leaves unspecified, and the local value of the command (R151, R153; that an idle engine
keeps its line states is the model's choice, log 13). Applied after an
illegal word it is refused with that word, in the state it leaves (log 9). -/
def Obligations.ResetDuringCommand : Prop :=
  (∀ s w n rest i, Ready s → s.hostIn = .commandThenReset w n :: rest → decodeCommand w = some i →
    ∃ m t, m = moves n (accept w { s with hostIn := rest }) ∧ step s = .next t ∧
      t.scl = m.scl ∧ t.sda = m.sda ∧ t.trace = m.trace ∧ t.gpio = m.gpio ∧
      t.pendingByteCount = 0 ∧ t.stopOnCompletion = false ∧ t.busy = false ∧ t.sp = 0 ∧
      t.rspValid = false ∧ t.rspData = 0x00#8 ∧ t.rspErr = false ∧ t.cfg = s.cfg ∧
      t.hostIn = rest ∧
      (m.busy = true → ∃ evs, m.trace = s.trace ++ evs ∧ (opsOf evs).length = n ∧
        ∀ e ∈ evs, ∀ v b, e ≠ .response v b)) ∧
  (∀ s rest, AtHost s → s.hostIn = .reset :: rest →
    ∃ c r, step s = .next
      { s with
        hostIn := rest, pendingByteCount := 0x00#8, stopOnCompletion := false, busy := false
        cmd := c, sp := 0, rx := r, rspValid := false, rspData := 0x00#8, rspErr := false }) ∧
  ∀ s w n rest, Ready s → s.hostIn = .commandThenReset w n :: rest → decodeCommand w = none →
    ∃ c r, step s = .refused (.illegalWord w
      { s with
        hostIn := rest, pendingByteCount := 0x00#8, stopOnCompletion := false, busy := false
        cmd := c, sp := 0, rx := r, rspValid := false, rspData := 0x00#8, rspErr := false
        trace := if n = 0 then s.trace else s.trace ++ [.response 0x00#8 true] })

/-- The meaning of a command is its acceptance followed by its line ops one at a time and its
response: the small-step engine of R29 reaches the same state, and at most 33 moves (32 line ops and
the response, R30) do it. Which move an assignment of the command happens in is log 15. -/
def Obligations.CommandIsItsMoves : Prop :=
  ∀ i w s, encodeCommand i = some w →
    exec i (accept w s) = .next (moves 33 (accept w s))

/-! ### Line driver (40_line_driver.md) -/

/-- The four setters (R75 to R79): each sets its line's state and the direction of its pin, takes the
delay whatever the line's state was, advances `sp` and makes its event; nothing else changes. With
SCL released, a data op that changes SDA makes a STOP or a START. -/
def Obligations.SettersResult : Prop :=
  ∀ s : State,
    exec .releaseClock s = .next
      { s with
        scl := .released, sp := s.sp + 1
        trace := s.trace ++ [.op .releaseClock s.cfg.bitDelayMicros]
        gpio := s.gpio ++ [.setDir s.cfg.clockPin .input, .delay s.cfg.bitDelayMicros] } ∧
    exec .assertClockLow s = .next
      { s with
        scl := .assertedLow, sp := s.sp + 1
        trace := s.trace ++ [.op .assertClockLow s.cfg.bitDelayMicros]
        gpio := s.gpio ++ [.driveLow s.cfg.clockPin, .delay s.cfg.bitDelayMicros] } ∧
    exec .releaseData s = .next
      { s with
        sda := .released, sp := s.sp + 1
        trace := s.trace ++ [.op .releaseData s.cfg.bitDelayMicros]
        gpio := s.gpio ++ [.setDir s.cfg.dataPin .input, .delay s.cfg.bitDelayMicros] } ∧
    exec .assertDataLow s = .next
      { s with
        sda := .assertedLow, sp := s.sp + 1
        trace := s.trace ++ [.op .assertDataLow s.cfg.bitDelayMicros]
        gpio := s.gpio ++ [.driveLow s.cfg.dataPin, .delay s.cfg.bitDelayMicros] } ∧
    encodeLop .releaseClock = some 0b000#3 ∧ encodeLop .assertClockLow = some 0b001#3 ∧
    encodeLop .releaseData = some 0b010#3 ∧ encodeLop .assertDataLow = some 0b011#3 ∧
    (∀ d, conditions Held.none (linesOf s) [.op .releaseData d] =
      if s.scl = .released ∧ s.sda = .assertedLow then [.stop] else []) ∧
    ∀ d, conditions Held.none (linesOf s) [.op .assertDataLow d] =
      if s.scl = .released ∧ s.sda = .released then [.start] else []

/-- `READ_DATA` with SDA released (R80): it returns the level the devices present, 1 for HIGH, as
`Sample(b)`, takes no delay and leaves both lines; only the sample, `sp`, the caller's local value
and the sample's input change. That the bit is shifted into `rx` is log 8, the input and its counter
log 6. -/
def Obligations.ReadDataResult : Prop :=
  ∀ s : State, s.sda = .released →
    exec .readData s = .next
      { s with
        sp := s.sp + 1
        rx := s.rx <<< 1 ||| (BitVec.ofBool (upcomingBit s 0)).zeroExtend 8
        sdaIn := s.sdaIn.tail
        draws := s.draws + 1
        trace := s.trace ++ [.sample (upcomingBit s 0)]
        gpio := s.gpio ++ [.readPin s.cfg.dataPin (upcoming s 0)] } ∧
    encodeLop .readData = some 0b110#3

/-- `READ_DATA` while the engine asserts SDA is not valid: it returns a free value, whatever the
devices present (R85; log 7), and does everything else as it does with SDA released. That the bit is
shifted into `rx` is log 8, the input and its counter log 6. -/
def Obligations.InvalidReadIsFree : Prop :=
  ∀ s : State, s.sda = .assertedLow →
    exec .readData s = .next
      { s with
        sp := s.sp + 1
        rx := s.rx <<< 1 |||
          (BitVec.ofBool (levelBit (Config.invalidRead s.draws))).zeroExtend 8
        sdaIn := s.sdaIn.tail
        draws := s.draws + 1
        trace := s.trace ++ [.sample (levelBit (Config.invalidRead s.draws))]
        gpio := s.gpio ++ [.readPin s.cfg.dataPin (Config.invalidRead s.draws)] }

/-- The level of a line is the wired-AND of the engine and the devices (R27). -/
def Obligations.WiredAnd : Prop :=
  ∀ st dev, lineLevel st dev = .low ↔ st = .assertedLow ∨ dev = true

/-! ### START / STOP generator (41_start_stop_gen.md) -/

/-- `START` from every entry state: the line states after each of its four ops and the conditions the
bus sees, START or STOP then START (the table of R92; R91). -/
def Obligations.StartByEntry : Prop :=
  ∀ (l : Lines) (d : Nat) (b : Nat → Bool),
    startOps = [.releaseClock, .releaseData, .assertDataLow, .assertClockLow] ∧
    l.afterOps (startOps.take 1) = ⟨.released, l.sda⟩ ∧
    l.afterOps (startOps.take 2) = ⟨.released, .released⟩ ∧
    l.afterOps (startOps.take 3) = ⟨.released, .assertedLow⟩ ∧
    l.afterOps startOps = ⟨.assertedLow, .assertedLow⟩ ∧
    conditions Held.none l (eventsOf d b 0 startOps) =
      (if l.sda = .assertedLow then [.stop, .start] else [.start]) ∧
    totalDelay (eventsOf d b 0 startOps) = 4 * d

/-- `STOP` from every entry state: the line states after each op and the conditions, one STOP, after a
START if the bus was idle (the table of R95; R94). -/
def Obligations.StopByEntry : Prop :=
  ∀ (l : Lines) (d : Nat) (b : Nat → Bool),
    stopOps = [.assertDataLow, .releaseClock, .releaseData] ∧
    l.afterOps (stopOps.take 1) = ⟨l.scl, .assertedLow⟩ ∧
    l.afterOps (stopOps.take 2) = ⟨.released, .assertedLow⟩ ∧
    l.afterOps stopOps = ⟨.released, .released⟩ ∧
    conditions Held.none l (eventsOf d b 0 stopOps) =
      (if l = ⟨.released, .released⟩ then [.start, .stop] else [.stop]) ∧
    totalDelay (eventsOf d b 0 stopOps) = 3 * d

/-- `RELEASE_BOTH` releases the clock first; it makes a STOP exactly when SDA was asserted (R90). -/
def Obligations.ReleaseBothByEntry : Prop :=
  ∀ (l : Lines) (d : Nat) (b : Nat → Bool),
    releaseBothOps = [.releaseClock, .releaseData] ∧
    l.afterOps releaseBothOps = ⟨.released, .released⟩ ∧
    conditions Held.none l (eventsOf d b 0 releaseBothOps) =
      (if l.sda = .assertedLow then [.stop] else []) ∧
    totalDelay (eventsOf d b 0 releaseBothOps) = 2 * d

/-- A device that holds SDA, or SCL, low throughout defeats START and STOP: the bus sees no condition,
and the engine performs the same ops (R96). -/
def Obligations.HeldLineDefeatsConditions : Prop :=
  ∀ (h : Held) (l : Lines) (d : Nat) (b : Nat → Bool), h.sda = true ∨ h.scl = true →
    conditions h l (eventsOf d b 0 startOps) = [] ∧ conditions h l (eventsOf d b 0 stopOps) = []

/-! ### Byte transmit and receive (42_byte_tx_rx.md) -/

/-- `PULSE_CLOCK`, `WRITE_BIT`, `ACK_CAPTURE`, `SEND_ACK` and `SEND_NACK`: their ops, the line states
they end in, their durations, and SDA at the rising edge of a pulse entered with SCL asserted (R101,
R102, R104, R107, R108). -/
def Obligations.BitSequences : Prop :=
  ∀ (l : Lines) (d : Nat) (b : Nat → Bool) (bit : Bool),
    pulseClockOps = [.releaseClock, .assertClockLow] ∧
    l.afterOps pulseClockOps = ⟨.assertedLow, l.sda⟩ ∧
    writeBitOps bit =
      [if bit then .releaseData else .assertDataLow, .releaseClock, .assertClockLow] ∧
    l.afterOps (writeBitOps bit) = ⟨.assertedLow, lineOfBit bit⟩ ∧
    ackCaptureOps = [.releaseData, .releaseClock, .readData, .assertClockLow] ∧
    l.afterOps ackCaptureOps = ⟨.assertedLow, .released⟩ ∧
    sendAckOps = [.assertDataLow, .releaseClock, .assertClockLow] ∧
    l.afterOps sendAckOps = ⟨.assertedLow, .assertedLow⟩ ∧
    sendNackOps = [.releaseData, .releaseClock, .assertClockLow] ∧
    l.afterOps sendNackOps = ⟨.assertedLow, .released⟩ ∧
    totalDelay (eventsOf d b 0 pulseClockOps) = 2 * d ∧
    totalDelay (eventsOf d b 0 (writeBitOps bit)) = 3 * d ∧
    totalDelay (eventsOf d b 0 ackCaptureOps) = 3 * d ∧
    totalDelay (eventsOf d b 0 sendAckOps) = 3 * d ∧
    totalDelay (eventsOf d b 0 sendNackOps) = 3 * d ∧
    (l.scl = .assertedLow →
      sdaAtEdges l (eventsOf d b 0 pulseClockOps) = [l.sda] ∧
      sdaAtEdges l (eventsOf d b 0 (writeBitOps bit)) = [lineOfBit bit] ∧
      sdaAtEdges l (eventsOf d b 0 ackCaptureOps) = [.released] ∧
      sdaAtEdges l (eventsOf d b 0 sendAckOps) = [.assertedLow] ∧
      sdaAtEdges l (eventsOf d b 0 sendNackOps) = [.released])

/-- `WRITE_BYTE(v)` entered with SCL asserted: 28 line ops, nine rising edges, SDA at the first eight
the bits of `v` from bit 7 to bit 0 and released at the ninth, and one sample, after the ninth edge
(R42, R103, R105). -/
def Obligations.WriteByteOnTheWire : Prop :=
  ∀ (l : Lines) (d : Nat) (b : Nat → Bool) (v : Byte), l.scl = .assertedLow →
    (writeByteOps v).length = 28 ∧ writeByteOps v = (wireBits v).flatMap writeBitOps ++ ackCaptureOps ∧
    ((wireBits v).flatMap writeBitOps).length = 24 ∧ ackCaptureOps.length = 4 ∧
    sdaAtEdges l (eventsOf d b 0 (writeByteOps v)) =
      [lineOfBit (v.getLsbD 7), lineOfBit (v.getLsbD 6), lineOfBit (v.getLsbD 5),
        lineOfBit (v.getLsbD 4), lineOfBit (v.getLsbD 3), lineOfBit (v.getLsbD 2),
        lineOfBit (v.getLsbD 1), lineOfBit (v.getLsbD 0), .released] ∧
    l.afterOps (writeByteOps v) = ⟨.assertedLow, .released⟩ ∧
    conditions Held.none l (eventsOf d b 0 (writeByteOps v)) = [] ∧
    totalDelay (eventsOf d b 0 (writeByteOps v)) = 27 * d ∧
    ∃ pre, writeByteOps v = pre ++ [.readData, .assertClockLow] ∧ samplesIn pre = 0 ∧
      risingEdges l (eventsOf d b 0 pre) = 9

/-- Clock phases of a frame entered with SCL asserted: a sent bit and the acknowledge of a sent byte
have SCL LOW for `2d` (the first `d` of them here, the other in the command before) and HIGH for
`d`; a received bit has HIGH `d` and LOW `d`; the master's acknowledge pulse LOW `2d`, HIGH `d`
(R110, R111, R166). -/
def Obligations.ClockPhases : Prop :=
  ∀ (l : Lines) (d : Nat) (b : Nat → Bool) (v : Byte), l.scl = .assertedLow →
    sclPhases l (eventsOf d b 0 (writeByteOps v)) =
      (.assertedLow, d) ::
        ((List.replicate 8 [(.released, d), (.assertedLow, 2 * d)]).flatten ++
          [(.released, d), (.assertedLow, d)]) ∧
    sclPhases l (eventsOf d b 0 (readByteOps ++ sendAckOps)) =
      (.assertedLow, d) ::
        ((List.replicate 7 [(.released, d), (.assertedLow, d)]).flatten ++
          [(.released, d), (.assertedLow, 2 * d), (.released, d), (.assertedLow, d)]) ∧
    sclPhases l (eventsOf d b 0 (readByteOps ++ sendNackOps)) =
      sclPhases l (eventsOf d b 0 (readByteOps ++ sendAckOps))

/-- `READ_BYTE` from any state: the value is the eight samples, the k-th (from 0) in bit 7 - k; it
releases SDA first and ends with SCL asserted and SDA released; 25 line ops, 8 samples, `17d`
(R42, R106). -/
def Obligations.ReadByteAssembles : Prop :=
  ∀ s : State,
    (∀ k < 8, (perform readByteOps s).rx.getLsbD (7 - k) = upcomingBit s k) ∧
    (perform readByteOps s).rx.toNat =
      ((List.range 8).map fun k => (upcomingBit s k).toNat * 2 ^ (7 - k)).sum ∧
    (perform readByteOps s).scl = .assertedLow ∧ (perform readByteOps s).sda = .released ∧
    (perform readByteOps s).trace = s.trace ++ eventsFrom s readByteOps ∧
    readByteOps = .releaseData ::
      (List.replicate 8 [.releaseClock, .readData, .assertClockLow]).flatten ∧
    readByteOps.length = 25 ∧
    sampleCount (eventsFrom s readByteOps) = 8 ∧
    totalDelay (eventsFrom s readByteOps) = 17 * s.cfg.bitDelayMicros

/-- Every sample a command takes, from any state, is taken while the engine releases SDA (R109). -/
def Obligations.SamplesAreValid : Prop :=
  ∀ i s t, i.hostIssuable = true → exec i s = .next t →
    ∃ evs, t.trace = s.trace ++ evs ∧ samplesValid (linesOf s) evs = true

/-! ### Host commands (43_commands.md) -/

/-- The address byte is `{addr, rw}`, which is `(addr << 1) | rw` (R43, R116). -/
def Obligations.AddressByte : Prop :=
  ∀ (a : Addr) (rw : Bool),
    (addrByte a rw).toNat = 2 * a.toNat + rw.toNat ∧
    addrByte a rw = a.zeroExtend 8 <<< 1 ||| (BitVec.ofBool rw).zeroExtend 8

/-- `BEGIN` and `END` from any state: both lines released, response 0x00, the Transaction State kept,
two line ops, a STOP on the bus exactly when SDA was asserted (R113, R114; `rx` and `sp` after a
command are logs 8 and 24). -/
def Obligations.BeginEndResult : Prop :=
  ∀ s : State,
    exec .cmdBegin s = .next (commandResult [.releaseClock, .releaseData] .released .released
      s.pendingByteCount s.stopOnCompletion 0x00#8 s) ∧
    exec .cmdEnd s = exec .cmdBegin s ∧
    conditions Held.none (linesOf s) (eventsFrom s [.releaseClock, .releaseData]) =
      (if s.sda = .assertedLow then [.stop] else []) ∧
    totalDelay (eventsFrom s [.releaseClock, .releaseData]) = 2 * s.cfg.bitDelayMicros

/-- Any sequence of one or more `BEGIN` and `END` commands leaves both lines released and the
Transaction State as it was; `BEGIN; BEGIN` leaves them as `BEGIN` does, its second half makes no
transition, and each command's two events of delay `d` stand in the trace (R115). -/
def Obligations.BeginEndIdempotent : Prop :=
  (∀ (s : State) (ws : List CmdWord), Ready s → ws ≠ [] →
    (∀ w ∈ ws, w = 0x100000#24 ∨ w = 0x200000#24) → s.hostIn = hostProgram ws →
    ∃ t evs, Host.Core.run Sys2Proof.core ws.length s = .next t ∧
      t.scl = .released ∧ t.sda = .released ∧ t.pendingByteCount = s.pendingByteCount ∧
      t.stopOnCompletion = s.stopOnCompletion ∧ t.trace = s.trace ++ evs ∧
      (opsOf evs).length = 2 * ws.length ∧
      totalDelay evs = 2 * ws.length * s.cfg.bitDelayMicros) ∧
  ∀ s t u : State, exec .cmdBegin s = .next t → exec .cmdBegin t = .next u →
    linesOf u = linesOf t ∧ u.pendingByteCount = t.pendingByteCount ∧
      u.stopOnCompletion = t.stopOnCompletion ∧
      ∃ evs, u.trace = t.trace ++ evs ∧ transitions (linesOf t) evs = 0 ∧
        (opsOf evs).length = 2 ∧ totalDelay evs = 2 * s.cfg.bitDelayMicros

/-- `BEGIN_TX addr` from any state: START, then the wire byte `{addr, 0}`; the response is 0x00 if the
sample of its ninth pulse is LOW and 0x01 if not; parked `(A, R)`, no STOP on a NACK, the
Transaction State kept; 32 line ops, `31d`, one sample (R117, R118; `rx` and `sp` after a command are
logs 8 and 24). -/
def Obligations.BeginTxResult : Prop :=
  ∀ (a : Addr) (s : State),
    exec (.beginTx a) s = .next
      (commandResult (startOps ++ writeByteOps (a ++ 0#1)) .assertedLow .released
        s.pendingByteCount s.stopOnCompletion (if upcomingBit s 0 then 0x01#8 else 0x00#8) s) ∧
    conditions Held.none (linesOf s) (eventsFrom s (startOps ++ writeByteOps (a ++ 0#1))) =
      (if s.sda = .assertedLow then [.stop, .start] else [.start]) ∧
    (startOps ++ writeByteOps (a ++ 0#1)).length = 32 ∧
    totalDelay (eventsFrom s (startOps ++ writeByteOps (a ++ 0#1))) =
      31 * s.cfg.bitDelayMicros ∧
    sampleCount (eventsFrom s (startOps ++ writeByteOps (a ++ 0#1))) = 1 ∧
    encodeCommand (.beginTx a) = some (0x300000#24 ||| a.zeroExtend 24 <<< 8)

/-- `WRITE byte` from any state, whatever was acknowledged before: the wire byte, 0x00 on ACK and 0x01
on NACK, parked `(A, R)`, the Transaction State kept; 28 line ops, `27d`, one sample (R119, R120; `rx`
and `sp` after a command are logs 8 and 24). -/
def Obligations.WriteResult : Prop :=
  ∀ (b : Byte) (s : State),
    exec (.write b) s = .next
      (commandResult (writeByteOps b) .assertedLow .released s.pendingByteCount
        s.stopOnCompletion (if upcomingBit s 0 then 0x01#8 else 0x00#8) s) ∧
    (writeByteOps b).length = 28 ∧
    totalDelay (eventsFrom s (writeByteOps b)) = 27 * s.cfg.bitDelayMicros ∧
    sampleCount (eventsFrom s (writeByteOps b)) = 1 ∧
    encodeCommand (.write b) = some (0x400000#24 ||| b.zeroExtend 24)

/-- `WRITE` on an idle bus: its first data operation is a START exactly when bit 7 of the byte is 0;
the rest of the frame makes no condition (R121). -/
def Obligations.WriteOnIdleBus : Prop :=
  ∀ (b : Byte) (s : State), s.scl = .released → s.sda = .released →
    conditions Held.none (linesOf s) (eventsFrom s (writeByteOps b)) =
      (if b.getLsbD 7 then [] else [.start]) ∧
    conditions Held.none (linesOf s) ((eventsFrom s (writeByteOps b)).take 1) =
      (if b.getLsbD 7 then [] else [.start])

/-- `END_TX stop` from any state: with stop = 1 a STOP and both lines released, with stop = 0 no line
op and both lines as they were; response 0x00, the Transaction State kept (R122; `rx` and `sp` after a
command are logs 8 and 24). -/
def Obligations.EndTxResult : Prop :=
  ∀ s : State,
    exec (.endTx true) s = .next
      (commandResult [.assertDataLow, .releaseClock, .releaseData] .released .released
        s.pendingByteCount s.stopOnCompletion 0x00#8 s) ∧
    exec (.endTx false) s = .next
      (commandResult [] s.scl s.sda s.pendingByteCount s.stopOnCompletion 0x00#8 s) ∧
    conditions Held.none (linesOf s)
        (eventsFrom s [.assertDataLow, .releaseClock, .releaseData]) =
      (if linesOf s = ⟨.released, .released⟩ then [.start, .stop] else [.stop]) ∧
    totalDelay (eventsFrom s [.assertDataLow, .releaseClock, .releaseData]) =
      3 * s.cfg.bitDelayMicros ∧
    encodeCommand (.endTx true) = some 0x510000#24 ∧
    encodeCommand (.endTx false) = some 0x500000#24

/-- `REQUEST_FROM addr, qty, stop` from any state: `qty` and `stop` are stored, and stay stored on a
NACK (R125), START and the wire byte `{addr, 1}`; the response is `qty` on ACK and 0x00 on NACK;
parked `(A, R)`; 32 line ops, `31d`, one sample (R123; `rx` and `sp` after a command are logs 8 and
24). -/
def Obligations.RequestFromResult : Prop :=
  ∀ (a : Addr) (q : Byte) (p : Bool) (s : State),
    exec (.requestFrom a q p) s = .next
      (commandResult (startOps ++ writeByteOps (a ++ 1#1)) .assertedLow .released q p
        (if upcomingBit s 0 then 0x00#8 else q) s) ∧
    conditions Held.none (linesOf s) (eventsFrom s (startOps ++ writeByteOps (a ++ 1#1))) =
      (if s.sda = .assertedLow then [.stop, .start] else [.start]) ∧
    (startOps ++ writeByteOps (a ++ 1#1)).length = 32 ∧
    totalDelay (eventsFrom s (startOps ++ writeByteOps (a ++ 1#1))) =
      31 * s.cfg.bitDelayMicros ∧
    sampleCount (eventsFrom s (startOps ++ writeByteOps (a ++ 1#1))) = 1 ∧
    encodeCommand (.requestFrom a q p) =
      some (0x600000#24 ||| (BitVec.ofBool p).zeroExtend 24 <<< 16 ||| a.zeroExtend 24 <<< 8 |||
        q.zeroExtend 24)

/-- `READ` with nothing pending returns 0xFF and does nothing else: no line op, no GPIO request, no
change of the count or the lines (R124, R163; that `rx` is cleared is log 8). -/
def Obligations.ReadSentinel : Prop :=
  ∀ s : State, s.pendingByteCount = 0 →
    exec .read s = .next
      { s with
        busy := false, rx := 0x00#8, rspValid := true, rspData := 0xFF#8, rspErr := false
        trace := s.trace ++ [.response 0xFF#8 false] }

/-- `READ` (R124). With nothing pending it returns 0xFF with no line op. With more than one byte
pending it returns the byte of the eight coming samples, counts one less and drives an ACK that
leaves SDA asserted: 28 line ops, `20d`. With one byte pending it returns the byte, leaves nothing
pending and drives a NACK: without the stop bit the bus stays parked, 28 line ops and `20d`; with it
a STOP follows and the lines end released, 31 line ops and `23d`. The stop bit is not written. What
`rx` and `sp` hold after a command are logs 8 and 24. -/
def Obligations.ReadResult : Prop :=
  ∀ s : State,
    encodeCommand .read = some 0x700000#24 ∧
    (s.pendingByteCount = 0 → exec .read s = .next
      (commandResult [] s.scl s.sda 0 s.stopOnCompletion 0xFF#8 s)) ∧
    (1 < s.pendingByteCount.toNat → exec .read s = .next
      (commandResult (readByteOps ++ sendAckOps) .assertedLow .assertedLow
        (s.pendingByteCount - 1) s.stopOnCompletion (upcomingByte s) s)) ∧
    (s.pendingByteCount = 1 → s.stopOnCompletion = false → exec .read s = .next
      (commandResult (readByteOps ++ sendNackOps) .assertedLow .released 0 false
        (upcomingByte s) s)) ∧
    (s.pendingByteCount = 1 → s.stopOnCompletion = true → exec .read s = .next
      (commandResult (readByteOps ++ sendNackOps ++ stopOps) .released .released 0 true
        (upcomingByte s) s)) ∧
    (readByteOps ++ sendAckOps).length = 28 ∧ (readByteOps ++ sendNackOps).length = 28 ∧
    (readByteOps ++ sendNackOps ++ stopOps).length = 31 ∧
    totalDelay (eventsFrom s (readByteOps ++ sendAckOps)) = 20 * s.cfg.bitDelayMicros ∧
    totalDelay (eventsFrom s (readByteOps ++ sendNackOps)) = 20 * s.cfg.bitDelayMicros ∧
    totalDelay (eventsFrom s (readByteOps ++ sendNackOps ++ stopOps)) =
      23 * s.cfg.bitDelayMicros

/-- `REQUEST_FROM addr, 0, stop` answers 0x00 on ACK and on NACK alike; the `READ` after it takes the
sentinel path and leaves the bus parked, with no NACK and no STOP, whatever `stop` is (R126, R162). -/
def Obligations.ZeroQuantityRead : Prop :=
  ∀ (a : Addr) (p : Bool) (s t u : State),
    exec (.requestFrom a 0 p) s = .next t → exec .read (accept 0x700000#24 t) = .next u →
    t.rspData = 0x00#8 ∧ u.rspData = 0xFF#8 ∧ u.scl = .assertedLow ∧ u.sda = .released ∧
      u.gpio = t.gpio ∧ u.trace = t.trace ++ [.response 0xFF#8 false]

/-- A whole read transaction (R127): `REQUEST_FROM addr, n, stop` acknowledged, then `n` `READ`s, run
from a ready engine. The line ops are START and the address byte, then for each byte but the last
`READ_BYTE` and an ACK, then `READ_BYTE` and a NACK, then a STOP if and only if `stop = 1`; the bus
sees just the START (after a STOP if SDA was asserted at entry, R92) and that STOP; nothing is pending at the
end, the first response is `n`, and a further `READ` would return 0xFF with no line op. -/
def Obligations.ReadTransaction : Prop :=
  ∀ (s : State) (a : Addr) (n : Byte) (p : Bool) (w : CmdWord), Ready s → n ≠ 0 →
    encodeCommand (.requestFrom a n p) = some w → upcoming s 0 = .low →
    s.hostIn = hostProgram (w :: List.replicate n.toNat 0x700000#24) →
    ∃ t evs, Host.Core.run Sys2Proof.core (n.toNat + 1) s = .next t ∧
      t.trace = s.trace ++ evs ∧
      opsOf evs = startOps ++ writeByteOps (a ++ 1#1) ++
        (List.replicate (n.toNat - 1) (readByteOps ++ sendAckOps)).flatten ++ readByteOps ++
        sendNackOps ++ (if p then stopOps else []) ∧
      conditions Held.none (linesOf s) evs =
        (if s.sda = .assertedLow then [.stop, .start] else [.start]) ++
          (if p then [.stop] else []) ∧
      evs.find? (fun e => match e with | .response _ _ => true | _ => false) =
        some (.response n false) ∧
      t.pendingByteCount = 0 ∧ t.stopOnCompletion = p ∧ t.hostIn = [] ∧
      ∃ u, exec .read (accept 0x700000#24 t) = .next u ∧ u.rspData = 0xFF#8 ∧ u.gpio = t.gpio ∧
        linesOf u = linesOf t

/-- A whole write transaction (R128): `BEGIN_TX a; WRITE b1; ...; WRITE bN; END_TX stop` run from a
ready engine makes one START, at its beginning, and one STOP, at its end, if and only if `stop = 1`;
entered with SDA asserted its release of SDA makes a STOP before that START (R92). Its line ops are
START, the address byte and the N bytes, and the STOP. It holds whatever the bytes' acknowledges
are. -/
def Obligations.WriteTransaction : Prop :=
  ∀ (s : State) (a : Addr) (bs : List Byte) (p : Bool) (ws : List CmdWord), Ready s →
    (Instr.beginTx a :: bs.map Instr.write ++ [Instr.endTx p]).map encodeCommand = ws.map some →
    s.hostIn = hostProgram ws →
    ∃ t evs, Host.Core.run Sys2Proof.core (bs.length + 2) s = .next t ∧
      t.trace = s.trace ++ evs ∧
      opsOf evs = startOps ++ writeByteOps (a ++ 0#1) ++ bs.flatMap writeByteOps ++
        (if p then stopOps else []) ∧
      conditions Held.none (linesOf s) evs =
        (if s.sda = .assertedLow then [.stop, .start] else [.start]) ++
          (if p then [.stop] else []) ∧
      t.hostIn = []

/-- What each command leaves the lines in (R39): released after `BEGIN`, `END`, `END_TX 1` and the
last `READ` with the stop bit; SCL asserted after `BEGIN_TX`, `WRITE`, `REQUEST_FROM`, a `READ`
that leaves bytes and the last `READ` without the stop bit; as they were after `END_TX 0`, a
`READ` with nothing pending and an illegal word (in the state the refusal of that word carries,
log 9). -/
def Obligations.IdleInvariant : Prop :=
  (∀ s t i, exec i s = .next t →
    (i = .cmdBegin ∨ i = .cmdEnd ∨ i = .endTx true ∨
        (i = .read ∧ s.pendingByteCount = 1 ∧ s.stopOnCompletion = true) →
      t.scl = .released ∧ t.sda = .released) ∧
    ((∃ a, i = .beginTx a) ∨ (∃ b, i = .write b) ∨ (∃ a q p, i = .requestFrom a q p) ∨
        (i = .read ∧ s.pendingByteCount ≠ 0 ∧ t.pendingByteCount ≠ 0) ∨
        (i = .read ∧ s.pendingByteCount = 1 ∧ s.stopOnCompletion = false) →
      t.scl = .assertedLow) ∧
    (i = .endTx false ∨ (i = .read ∧ s.pendingByteCount = 0) →
      t.scl = s.scl ∧ t.sda = s.sda ∧ t.gpio = s.gpio)) ∧
  ∀ s t w rest, Ready s → s.hostIn = .command w :: rest → decodeCommand w = none →
    step s = .refused (.illegalWord w t) → t.scl = s.scl ∧ t.sda = s.sda ∧ t.gpio = s.gpio

/-- The response of every command, by what its samples were, and of an illegal word, which the model
refuses with the state that holds the hardware's response (R66, R133; log 9). -/
def Obligations.ResponseTable : Prop :=
  (∀ i s t, i.hostIssuable = true → exec i s = .next t →
    t.rspValid = true ∧ t.rspErr = false ∧
    match i with
    | .cmdBegin | .cmdEnd | .endTx _ => t.rspData = 0x00#8
    | .beginTx _ | .write _ => t.rspData = if upcoming s 0 = .low then 0x00#8 else 0x01#8
    | .requestFrom _ q _ => t.rspData = if upcoming s 0 = .low then q else 0x00#8
    | .read =>
      if s.pendingByteCount = 0 then t.rspData = 0xFF#8
      else ∀ k < 8, t.rspData.getLsbD (7 - k) = decide (upcoming s k = .high)
    | .releaseClock | .assertClockLow | .releaseData | .assertDataLow | .readData => False) ∧
  ∀ s w rest, Ready s → s.hostIn = .command w :: rest → decodeCommand w = none →
    ∃ t, step s = .refused (.illegalWord w t) ∧ t.rspValid = true ∧ t.rspErr = true ∧
      t.rspData = 0x00#8

/-- Line ops, samples, delay and rising clock edges of every command: the table of R165, the edges
counted from SCL asserted where it says so (WRITE, END_TX 1 and READ). An illegal word, refused with
the state that the hardware is left in, performs none (log 9). -/
def Obligations.CommandCosts : Prop :=
  (∀ i s t, exec i s = .next t → ∃ evs, t.trace = s.trace ++ evs ∧
    match i with
    | .cmdBegin | .cmdEnd =>
      (opsOf evs).length = 2 ∧ sampleCount evs = 0 ∧ totalDelay evs = 2 * s.cfg.bitDelayMicros ∧
        risingEdges (linesOf s) evs = (if s.scl = .assertedLow then 1 else 0)
    | .beginTx _ | .requestFrom _ _ _ =>
      (opsOf evs).length = 32 ∧ sampleCount evs = 1 ∧
        totalDelay evs = 31 * s.cfg.bitDelayMicros ∧
        risingEdges (linesOf s) evs = 9 + (if s.scl = .assertedLow then 1 else 0)
    | .write _ =>
      (opsOf evs).length = 28 ∧ sampleCount evs = 1 ∧
        totalDelay evs = 27 * s.cfg.bitDelayMicros ∧
        (s.scl = .assertedLow → risingEdges (linesOf s) evs = 9)
    | .endTx true =>
      (opsOf evs).length = 3 ∧ sampleCount evs = 0 ∧ totalDelay evs = 3 * s.cfg.bitDelayMicros ∧
        (s.scl = .assertedLow → risingEdges (linesOf s) evs = 1)
    | .endTx false =>
      opsOf evs = [] ∧ sampleCount evs = 0 ∧ totalDelay evs = 0 ∧
        risingEdges (linesOf s) evs = 0
    | .read =>
      if s.pendingByteCount = 0 then
        opsOf evs = [] ∧ sampleCount evs = 0 ∧ totalDelay evs = 0 ∧
          risingEdges (linesOf s) evs = 0
      else if s.pendingByteCount = 1 ∧ s.stopOnCompletion = true then
        (opsOf evs).length = 31 ∧ sampleCount evs = 8 ∧
          totalDelay evs = 23 * s.cfg.bitDelayMicros ∧
          (s.scl = .assertedLow → risingEdges (linesOf s) evs = 10)
      else
        (opsOf evs).length = 28 ∧ sampleCount evs = 8 ∧
          totalDelay evs = 20 * s.cfg.bitDelayMicros ∧
          (s.scl = .assertedLow → risingEdges (linesOf s) evs = 9)
    | .releaseClock | .assertClockLow | .releaseData | .assertDataLow =>
      (opsOf evs).length = 1 ∧ sampleCount evs = 0 ∧ totalDelay evs = s.cfg.bitDelayMicros
    | .readData => opsOf evs = [.readData] ∧ sampleCount evs = 1 ∧ totalDelay evs = 0) ∧
  ∀ s w rest, Ready s → s.hostIn = .command w :: rest → decodeCommand w = none →
    ∃ t, step s = .refused (.illegalWord w t) ∧ t.trace = s.trace ++ [.response 0x00#8 true]

/-! ### Frames and whole-machine rules -/

/-- Frame of the commands: none changes the configuration, the latched word, the host's requests or
the line driver's interface; only `REQUEST_FROM` and `READ` change the count and only
`REQUEST_FROM` the stop bit (R22, R23, R112); and the device inputs change only by the samples
taken. -/
def Obligations.CommandFrame : Prop :=
  ∀ i s t, i.hostIssuable = true → exec i s = .next t →
    t.cfg = s.cfg ∧ t.cmd = s.cmd ∧ t.hostIn = s.hostIn ∧ t.lopIn = s.lopIn ∧
    (t.pendingByteCount ≠ s.pendingByteCount →
      (∃ a p, i = .requestFrom a t.pendingByteCount p) ∨
        (i = .read ∧ t.pendingByteCount = s.pendingByteCount - 1 ∧ s.pendingByteCount ≠ 0)) ∧
    (t.stopOnCompletion ≠ s.stopOnCompletion →
      ∃ a q, i = .requestFrom a q t.stopOnCompletion) ∧
    ∃ evs, t.trace = s.trace ++ evs ∧ t.draws = s.draws + sampleCount evs ∧
      t.sdaIn = s.sdaIn.drop (sampleCount evs)

/-- Frame of the line ops: a line op writes its own line and no other, and none touches the
Transaction State, the response, the command in progress, the configuration or an interface; the
two clock ops leave SDA, the two data ops SCL, `READ_DATA` both (R76 to R80). -/
def Obligations.LineOpFrame : Prop :=
  ∀ i s t, i.hostIssuable = false → exec i s = .next t →
    t.pendingByteCount = s.pendingByteCount ∧ t.stopOnCompletion = s.stopOnCompletion ∧
    t.busy = s.busy ∧ t.cmd = s.cmd ∧ t.rspValid = s.rspValid ∧ t.rspData = s.rspData ∧
    t.rspErr = s.rspErr ∧ t.cfg = s.cfg ∧ t.hostIn = s.hostIn ∧ t.lopIn = s.lopIn ∧
    (i = .releaseClock ∨ i = .assertClockLow ∨ i = .readData → t.sda = s.sda) ∧
    (i = .releaseData ∨ i = .assertDataLow ∨ i = .readData → t.scl = s.scl) ∧
    (i ≠ .readData → t.rx = s.rx ∧ t.sdaIn = s.sdaIn ∧ t.draws = s.draws)

/-- Every instruction completes in every state: nothing faults and nothing is refused, and a command
leaves the engine idle with a valid response and no error (R112, R131, R137, R168). -/
def Obligations.EveryInstructionCompletes : Prop :=
  ∀ i s, ∃ t, exec i s = .next t ∧
    (i.hostIssuable = true →
      t.busy = false ∧ t.rspValid = true ∧ t.rspErr = false ∧
      ∃ evs, t.trace = s.trace ++ evs ++ [.response t.rspData false] ∧
        (opsOf evs).length ≤ 32)

/-- The line ops of a command depend only on the command, the count and the stop bit: two engines
that agree in these perform the same ones, whatever their samples and lines, and never more than 32
(R30); `sp` keeps their number after the command (R29; log 24). -/
def Obligations.LineOpSequence : Prop :=
  ∀ i s s', i.hostIssuable = true → s.pendingByteCount = s'.pendingByteCount →
    s.stopOnCompletion = s'.stopOnCompletion →
    ∃ t t' evs evs', exec i s = .next t ∧ exec i s' = .next t' ∧
      t.trace = s.trace ++ evs ∧ t'.trace = s'.trace ++ evs' ∧
      opsOf evs = opsOf evs' ∧ (opsOf evs).length ≤ 32 ∧
      t.sp = s.sp + (opsOf evs).length

/-- The Transaction State is hidden (R24): no instruction but `READ` shows it. Two engines that differ
only in the count and the stop bit make the same events and GPIO requests, drive the lines alike
and give the host the same outputs. -/
def Obligations.TransactionStateHidden : Prop :=
  ∀ i s n p, i ≠ .read → ∃ t t', exec i s = .next t ∧
    exec i { s with pendingByteCount := n, stopOnCompletion := p } = .next t' ∧
    t.trace = t'.trace ∧ t.gpio = t'.gpio ∧ outputEnables t = outputEnables t' ∧
    hostOutputs t = hostOutputs t'

/-- No rule depends on the length of a delay: engines that differ only in it end alike in everything
but the delays recorded in the events and in the GPIO requests that the instruction adds: with these
delays erased both lists are the same (R84). -/
def Obligations.DelayDoesNotSteer : Prop :=
  ∀ i s d, ∃ t t' evs evs' calls calls',
    exec i s = .next t ∧
    exec i { s with cfg := { s.cfg with bitDelayMicros := d } } = .next t' ∧
    t = { t' with cfg := s.cfg, trace := t.trace, gpio := t.gpio } ∧
    t.trace = s.trace ++ evs ∧ t'.trace = s.trace ++ evs' ∧ opsOf evs = opsOf evs' ∧
    evs.map Event.eraseDelay = evs'.map Event.eraseDelay ∧
    t.gpio = s.gpio ++ calls ∧ t'.gpio = s.gpio ++ calls' ∧
    calls.map GpioCall.eraseDelay = calls'.map GpioCall.eraseDelay

/-- `P_BINDING` has no effect on any step (R10). -/
def Obligations.BindingIrrelevant : Prop :=
  ∀ (s : State) (b : Binding),
    (∀ t, step s = .next t → step (rebind b s) = .next (rebind b t)) ∧
    ∀ r, step s = .refused r → step (rebind b s) = .refused (r.onState (rebind b))

/-- The configuration is never changed, by any step (R9). -/
def Obligations.ConfigNeverChanges : Prop :=
  ∀ s t, step s = .next t → t.cfg = s.cfg

/-- Every step keeps the open-drain rule: no request drives a line HIGH (R26, R158). -/
def Obligations.OpenDrainKept : Prop :=
  ∀ s t, OpenDrain s → step s = .next t → OpenDrain t

/-- The open-drain rule holds at reset: every request made by then keeps it (R26). -/
def Obligations.OpenDrainAtReset : Prop := OpenDrain State.reset

/-- Every step keeps the line states equal to the directions the engine gave its two pins (R25). -/
def Obligations.LinesArePinsKept : Prop :=
  ∀ s t, LinesArePins s → step s = .next t → LinesArePins t

/-- At reset no direction given to a pin contradicts its line state (R25, R36). -/
def Obligations.LinesArePinsAtReset : Prop := LinesArePins State.reset
end

