-- ==== Sys2Proof/Laws/Observe.lean ====
section
/-! SUPPORT. The observations of a joined stretch of events are the observations of its parts, and the
line ops of events are the line ops they were made of. -/

namespace Sys2Proof.Machine

/-- The line states after a stretch of events. -/
def Lines.afterEvents (l : Lines) (es : List Event) : Lines := es.foldl Lines.afterEvent l

theorem conditions_append (h : Held) (l : Lines) (xs ys : List Event) :
    conditions h l (xs ++ ys) = conditions h l xs ++ conditions h (l.afterEvents xs) ys := by
  induction xs generalizing l with
  | nil => rfl
  | cons x xs ih => simp [conditions, ih, Lines.afterEvents]

theorem sdaAtEdges_append (l : Lines) (xs ys : List Event) :
    sdaAtEdges l (xs ++ ys) = sdaAtEdges l xs ++ sdaAtEdges (l.afterEvents xs) ys := by
  induction xs generalizing l with
  | nil => rfl
  | cons x xs ih => simp [sdaAtEdges, ih, Lines.afterEvents]

theorem opsOf_append (xs ys : List Event) : opsOf (xs ++ ys) = opsOf xs ++ opsOf ys := by
  induction xs with
  | nil => rfl
  | cons x xs ih => cases x <;> simp [opsOf, ih]

theorem totalDelay_append (xs ys : List Event) :
    totalDelay (xs ++ ys) = totalDelay xs + totalDelay ys := by
  induction xs with
  | nil => simp [totalDelay]
  | cons x xs ih => cases x <;> simp [totalDelay, ih, Nat.add_assoc]

theorem sampleCount_append (xs ys : List Event) :
    sampleCount (xs ++ ys) = sampleCount xs + sampleCount ys := by
  induction xs with
  | nil => simp [sampleCount]
  | cons x xs ih => cases x <;> simp [sampleCount, ih, Nat.add_right_comm]

theorem opsOf_eventsOf (d : Nat) (b : Nat → Bool) (k : Nat) (ops : List LineOp) :
    opsOf (eventsOf d b k ops) = ops := by
  induction ops generalizing k with
  | nil => rfl
  | cons op ops ih => cases op <;> simp [eventsOf, opsOf, ih]

theorem sampleCount_eventsOf (d : Nat) (b : Nat → Bool) (k : Nat) (ops : List LineOp) :
    sampleCount (eventsOf d b k ops) = samplesIn ops := by
  induction ops generalizing k with
  | nil => rfl
  | cons op ops ih => cases op <;> simp [eventsOf, sampleCount, samplesIn, ih]

theorem afterEvents_eventsOf (l : Lines) (d : Nat) (b : Nat → Bool) (k : Nat)
    (ops : List LineOp) : l.afterEvents (eventsOf d b k ops) = l.afterOps ops := by
  induction ops generalizing k l with
  | nil => rfl
  | cons op ops ih =>
    cases op <;>
      simpa [eventsOf, Lines.afterEvents, Lines.afterOps, Lines.afterEvent, Lines.after] using
        ih _ _

theorem eventsOf_append (d : Nat) (b : Nat → Bool) (k : Nat) (xs ys : List LineOp) :
    eventsOf d b k (xs ++ ys) = eventsOf d b k xs ++ eventsOf d b (k + samplesIn xs) ys := by
  induction xs generalizing k with
  | nil => rfl
  | cons x xs ih =>
    cases x <;> simp [eventsOf, samplesIn, ih, Nat.add_assoc, Nat.add_comm 1]

theorem gpioOf_append (c : Cfg) (lv : Nat → Level) (k : Nat) (xs ys : List LineOp) :
    gpioOf c lv k (xs ++ ys) = gpioOf c lv k xs ++ gpioOf c lv (k + samplesIn xs) ys := by
  induction xs generalizing k with
  | nil => rfl
  | cons x xs ih =>
    cases x <;> simp [gpioOf, samplesIn, ih, Nat.add_assoc, Nat.add_comm 1]

@[simp] theorem samplesIn_append (xs ys : List LineOp) :
    samplesIn (xs ++ ys) = samplesIn xs + samplesIn ys := by
  induction xs with
  | nil => simp [samplesIn]
  | cons x xs ih => cases x <;> simp [samplesIn, ih, Nat.add_right_comm]

@[simp] theorem afterOps_append (l : Lines) (xs ys : List LineOp) :
    l.afterOps (xs ++ ys) = (l.afterOps xs).afterOps ys :=
  List.foldl_append

@[simp] theorem opsValid_append (l : Lines) (xs ys : List LineOp) :
    opsValid l (xs ++ ys) = (opsValid l xs && opsValid (l.afterOps xs) ys) := by
  induction xs generalizing l with
  | nil => rfl
  | cons x xs ih =>
    cases x <;> simp [opsValid, ih, Lines.afterOps, Lines.after, Bool.and_assoc]

@[simp] theorem rxOf_append (b : Nat → Bool) (k : Nat) (rx : Byte) (xs ys : List LineOp) :
    rxOf b k rx (xs ++ ys) = rxOf b (k + samplesIn xs) (rxOf b k rx xs) ys := by
  induction xs generalizing k rx with
  | nil => rfl
  | cons x xs ih => cases x <;> simp [rxOf, samplesIn, ih, Nat.add_assoc, Nat.add_comm 1]

/-- The delay of line ops: `d` for each setter, none for a sample (R75, R80). -/
theorem totalDelay_eventsOf (d : Nat) (b : Nat → Bool) (k : Nat) (ops : List LineOp) :
    totalDelay (eventsOf d b k ops) + samplesIn ops * d = ops.length * d := by
  induction ops generalizing k with
  | nil => simp [eventsOf, totalDelay, samplesIn]
  | cons op ops ih =>
    have h := fun k => ih k
    cases op <;> simp only [eventsOf, totalDelay, samplesIn, List.length_cons, Nat.add_mul] <;>
      first
        | (have := h k; omega)
        | (have := h (k + 1); omega)

/-- Events of valid line ops are valid samples (R109). -/
theorem samplesValid_eventsOf (l : Lines) (d : Nat) (b : Nat → Bool) (k : Nat)
    (ops : List LineOp) : samplesValid l (eventsOf d b k ops) = opsValid l ops := by
  induction ops generalizing k l with
  | nil => rfl
  | cons op ops ih => cases op <;> simp [eventsOf, samplesValid, opsValid, ih]

end Sys2Proof.Machine
end

