-- ==== Sys2Proof/Laws/State.lean ====
section
/-! SUPPORT. What each shared update leaves in each field of the state. -/

namespace Sys2Proof.Machine

section accept

variable (w : CmdWord) (s : State)

@[simp] theorem accept_pendingByteCount : (accept w s).pendingByteCount = s.pendingByteCount := rfl
@[simp] theorem accept_stopOnCompletion : (accept w s).stopOnCompletion = s.stopOnCompletion := rfl
@[simp] theorem accept_scl : (accept w s).scl = s.scl := rfl
@[simp] theorem accept_sda : (accept w s).sda = s.sda := rfl
@[simp] theorem accept_busy : (accept w s).busy = true := rfl
@[simp] theorem accept_cmd : (accept w s).cmd = w := rfl
@[simp] theorem accept_sp : (accept w s).sp = 0 := rfl
@[simp] theorem accept_rx : (accept w s).rx = 0x00#8 := rfl
@[simp] theorem accept_rspValid : (accept w s).rspValid = false := rfl
@[simp] theorem accept_rspData : (accept w s).rspData = s.rspData := rfl
@[simp] theorem accept_rspErr : (accept w s).rspErr = s.rspErr := rfl
@[simp] theorem accept_cfg : (accept w s).cfg = s.cfg := rfl
@[simp] theorem accept_hostIn : (accept w s).hostIn = s.hostIn := rfl
@[simp] theorem accept_lopIn : (accept w s).lopIn = s.lopIn := rfl
@[simp] theorem accept_sdaIn : (accept w s).sdaIn = s.sdaIn := rfl
@[simp] theorem accept_draws : (accept w s).draws = s.draws := rfl
@[simp] theorem accept_trace : (accept w s).trace = s.trace := rfl
@[simp] theorem accept_gpio : (accept w s).gpio = s.gpio := rfl

end accept

section respond

variable (v : Byte) (e : Bool) (s : State)

@[simp] theorem respond_pendingByteCount :
    (respond v e s).pendingByteCount = s.pendingByteCount := rfl
@[simp] theorem respond_stopOnCompletion :
    (respond v e s).stopOnCompletion = s.stopOnCompletion := rfl
@[simp] theorem respond_scl : (respond v e s).scl = s.scl := rfl
@[simp] theorem respond_sda : (respond v e s).sda = s.sda := rfl
@[simp] theorem respond_busy : (respond v e s).busy = false := rfl
@[simp] theorem respond_cmd : (respond v e s).cmd = s.cmd := rfl
@[simp] theorem respond_sp : (respond v e s).sp = s.sp := rfl
@[simp] theorem respond_rx : (respond v e s).rx = 0x00#8 := rfl
@[simp] theorem respond_rspValid : (respond v e s).rspValid = true := rfl
@[simp] theorem respond_rspData : (respond v e s).rspData = v := rfl
@[simp] theorem respond_rspErr : (respond v e s).rspErr = e := rfl
@[simp] theorem respond_cfg : (respond v e s).cfg = s.cfg := rfl
@[simp] theorem respond_hostIn : (respond v e s).hostIn = s.hostIn := rfl
@[simp] theorem respond_lopIn : (respond v e s).lopIn = s.lopIn := rfl
@[simp] theorem respond_sdaIn : (respond v e s).sdaIn = s.sdaIn := rfl
@[simp] theorem respond_draws : (respond v e s).draws = s.draws := rfl
@[simp] theorem respond_trace : (respond v e s).trace = s.trace ++ [.response v e] := rfl
@[simp] theorem respond_gpio : (respond v e s).gpio = s.gpio := rfl

end respond

section storeTransaction

variable (q : Byte) (p : Bool) (s : State)

@[simp] theorem storeTransaction_pendingByteCount :
    (storeTransaction q p s).pendingByteCount = q := rfl
@[simp] theorem storeTransaction_stopOnCompletion :
    (storeTransaction q p s).stopOnCompletion = p := rfl
@[simp] theorem storeTransaction_scl : (storeTransaction q p s).scl = s.scl := rfl
@[simp] theorem storeTransaction_sda : (storeTransaction q p s).sda = s.sda := rfl
@[simp] theorem storeTransaction_busy : (storeTransaction q p s).busy = s.busy := rfl
@[simp] theorem storeTransaction_cmd : (storeTransaction q p s).cmd = s.cmd := rfl
@[simp] theorem storeTransaction_sp : (storeTransaction q p s).sp = s.sp := rfl
@[simp] theorem storeTransaction_rx : (storeTransaction q p s).rx = s.rx := rfl
@[simp] theorem storeTransaction_rspValid : (storeTransaction q p s).rspValid = s.rspValid := rfl
@[simp] theorem storeTransaction_rspData : (storeTransaction q p s).rspData = s.rspData := rfl
@[simp] theorem storeTransaction_rspErr : (storeTransaction q p s).rspErr = s.rspErr := rfl
@[simp] theorem storeTransaction_cfg : (storeTransaction q p s).cfg = s.cfg := rfl
@[simp] theorem storeTransaction_hostIn : (storeTransaction q p s).hostIn = s.hostIn := rfl
@[simp] theorem storeTransaction_lopIn : (storeTransaction q p s).lopIn = s.lopIn := rfl
@[simp] theorem storeTransaction_sdaIn : (storeTransaction q p s).sdaIn = s.sdaIn := rfl
@[simp] theorem storeTransaction_draws : (storeTransaction q p s).draws = s.draws := rfl
@[simp] theorem storeTransaction_trace : (storeTransaction q p s).trace = s.trace := rfl
@[simp] theorem storeTransaction_gpio : (storeTransaction q p s).gpio = s.gpio := rfl

end storeTransaction

section decrementPending

variable (s : State)

@[simp] theorem decrementPending_pendingByteCount :
    (decrementPending s).pendingByteCount = if s.pendingByteCount = 0x00#8 then 0x00#8 else s.pendingByteCount - 1#8 := rfl
@[simp] theorem decrementPending_stopOnCompletion :
    (decrementPending s).stopOnCompletion = s.stopOnCompletion := rfl
@[simp] theorem decrementPending_scl : (decrementPending s).scl = s.scl := rfl
@[simp] theorem decrementPending_sda : (decrementPending s).sda = s.sda := rfl
@[simp] theorem decrementPending_busy : (decrementPending s).busy = s.busy := rfl
@[simp] theorem decrementPending_cmd : (decrementPending s).cmd = s.cmd := rfl
@[simp] theorem decrementPending_sp : (decrementPending s).sp = s.sp := rfl
@[simp] theorem decrementPending_rx : (decrementPending s).rx = s.rx := rfl
@[simp] theorem decrementPending_rspValid : (decrementPending s).rspValid = s.rspValid := rfl
@[simp] theorem decrementPending_rspData : (decrementPending s).rspData = s.rspData := rfl
@[simp] theorem decrementPending_rspErr : (decrementPending s).rspErr = s.rspErr := rfl
@[simp] theorem decrementPending_cfg : (decrementPending s).cfg = s.cfg := rfl
@[simp] theorem decrementPending_hostIn : (decrementPending s).hostIn = s.hostIn := rfl
@[simp] theorem decrementPending_lopIn : (decrementPending s).lopIn = s.lopIn := rfl
@[simp] theorem decrementPending_sdaIn : (decrementPending s).sdaIn = s.sdaIn := rfl
@[simp] theorem decrementPending_draws : (decrementPending s).draws = s.draws := rfl
@[simp] theorem decrementPending_trace : (decrementPending s).trace = s.trace := rfl
@[simp] theorem decrementPending_gpio : (decrementPending s).gpio = s.gpio := rfl

end decrementPending

section resetEngine

variable (s : State)

@[simp] theorem resetEngine_pendingByteCount : (resetEngine s).pendingByteCount = 0x00#8 := rfl
@[simp] theorem resetEngine_stopOnCompletion : (resetEngine s).stopOnCompletion = false := rfl
@[simp] theorem resetEngine_scl : (resetEngine s).scl = s.scl := rfl
@[simp] theorem resetEngine_sda : (resetEngine s).sda = s.sda := rfl
@[simp] theorem resetEngine_busy : (resetEngine s).busy = false := rfl
@[simp] theorem resetEngine_cmd : (resetEngine s).cmd = Config.resetCmd := rfl
@[simp] theorem resetEngine_sp : (resetEngine s).sp = 0 := rfl
@[simp] theorem resetEngine_rx : (resetEngine s).rx = 0x00#8 := rfl
@[simp] theorem resetEngine_rspValid : (resetEngine s).rspValid = false := rfl
@[simp] theorem resetEngine_rspData : (resetEngine s).rspData = 0x00#8 := rfl
@[simp] theorem resetEngine_rspErr : (resetEngine s).rspErr = false := rfl
@[simp] theorem resetEngine_cfg : (resetEngine s).cfg = s.cfg := rfl
@[simp] theorem resetEngine_hostIn : (resetEngine s).hostIn = s.hostIn := rfl
@[simp] theorem resetEngine_lopIn : (resetEngine s).lopIn = none := rfl
@[simp] theorem resetEngine_sdaIn : (resetEngine s).sdaIn = s.sdaIn := rfl
@[simp] theorem resetEngine_draws : (resetEngine s).draws = s.draws := rfl
@[simp] theorem resetEngine_trace : (resetEngine s).trace = s.trace := rfl
@[simp] theorem resetEngine_gpio : (resetEngine s).gpio = s.gpio := rfl

end resetEngine

section releaseClock

variable (s : State)

@[simp] theorem releaseClock_pendingByteCount :
    (releaseClock s).pendingByteCount = s.pendingByteCount := rfl
@[simp] theorem releaseClock_stopOnCompletion :
    (releaseClock s).stopOnCompletion = s.stopOnCompletion := rfl
@[simp] theorem releaseClock_scl : (releaseClock s).scl = .released := rfl
@[simp] theorem releaseClock_sda : (releaseClock s).sda = s.sda := rfl
@[simp] theorem releaseClock_busy : (releaseClock s).busy = s.busy := rfl
@[simp] theorem releaseClock_cmd : (releaseClock s).cmd = s.cmd := rfl
@[simp] theorem releaseClock_sp : (releaseClock s).sp = s.sp + 1 := rfl
@[simp] theorem releaseClock_rx : (releaseClock s).rx = s.rx := rfl
@[simp] theorem releaseClock_rspValid : (releaseClock s).rspValid = s.rspValid := rfl
@[simp] theorem releaseClock_rspData : (releaseClock s).rspData = s.rspData := rfl
@[simp] theorem releaseClock_rspErr : (releaseClock s).rspErr = s.rspErr := rfl
@[simp] theorem releaseClock_cfg : (releaseClock s).cfg = s.cfg := rfl
@[simp] theorem releaseClock_hostIn : (releaseClock s).hostIn = s.hostIn := rfl
@[simp] theorem releaseClock_lopIn : (releaseClock s).lopIn = s.lopIn := rfl
@[simp] theorem releaseClock_sdaIn : (releaseClock s).sdaIn = s.sdaIn := rfl
@[simp] theorem releaseClock_draws : (releaseClock s).draws = s.draws := rfl
@[simp] theorem releaseClock_trace :
    (releaseClock s).trace = s.trace ++ [.op .releaseClock s.cfg.bitDelayMicros] := rfl
@[simp] theorem releaseClock_gpio :
    (releaseClock s).gpio = s.gpio ++ [.setDir s.cfg.clockPin .input, .delay s.cfg.bitDelayMicros] := rfl

end releaseClock

section assertClockLow

variable (s : State)

@[simp] theorem assertClockLow_pendingByteCount :
    (assertClockLow s).pendingByteCount = s.pendingByteCount := rfl
@[simp] theorem assertClockLow_stopOnCompletion :
    (assertClockLow s).stopOnCompletion = s.stopOnCompletion := rfl
@[simp] theorem assertClockLow_scl : (assertClockLow s).scl = .assertedLow := rfl
@[simp] theorem assertClockLow_sda : (assertClockLow s).sda = s.sda := rfl
@[simp] theorem assertClockLow_busy : (assertClockLow s).busy = s.busy := rfl
@[simp] theorem assertClockLow_cmd : (assertClockLow s).cmd = s.cmd := rfl
@[simp] theorem assertClockLow_sp : (assertClockLow s).sp = s.sp + 1 := rfl
@[simp] theorem assertClockLow_rx : (assertClockLow s).rx = s.rx := rfl
@[simp] theorem assertClockLow_rspValid : (assertClockLow s).rspValid = s.rspValid := rfl
@[simp] theorem assertClockLow_rspData : (assertClockLow s).rspData = s.rspData := rfl
@[simp] theorem assertClockLow_rspErr : (assertClockLow s).rspErr = s.rspErr := rfl
@[simp] theorem assertClockLow_cfg : (assertClockLow s).cfg = s.cfg := rfl
@[simp] theorem assertClockLow_hostIn : (assertClockLow s).hostIn = s.hostIn := rfl
@[simp] theorem assertClockLow_lopIn : (assertClockLow s).lopIn = s.lopIn := rfl
@[simp] theorem assertClockLow_sdaIn : (assertClockLow s).sdaIn = s.sdaIn := rfl
@[simp] theorem assertClockLow_draws : (assertClockLow s).draws = s.draws := rfl
@[simp] theorem assertClockLow_trace :
    (assertClockLow s).trace = s.trace ++ [.op .assertClockLow s.cfg.bitDelayMicros] := rfl
@[simp] theorem assertClockLow_gpio :
    (assertClockLow s).gpio = s.gpio ++ [.driveLow s.cfg.clockPin, .delay s.cfg.bitDelayMicros] := rfl

end assertClockLow

section releaseData

variable (s : State)

@[simp] theorem releaseData_pendingByteCount :
    (releaseData s).pendingByteCount = s.pendingByteCount := rfl
@[simp] theorem releaseData_stopOnCompletion :
    (releaseData s).stopOnCompletion = s.stopOnCompletion := rfl
@[simp] theorem releaseData_scl : (releaseData s).scl = s.scl := rfl
@[simp] theorem releaseData_sda : (releaseData s).sda = .released := rfl
@[simp] theorem releaseData_busy : (releaseData s).busy = s.busy := rfl
@[simp] theorem releaseData_cmd : (releaseData s).cmd = s.cmd := rfl
@[simp] theorem releaseData_sp : (releaseData s).sp = s.sp + 1 := rfl
@[simp] theorem releaseData_rx : (releaseData s).rx = s.rx := rfl
@[simp] theorem releaseData_rspValid : (releaseData s).rspValid = s.rspValid := rfl
@[simp] theorem releaseData_rspData : (releaseData s).rspData = s.rspData := rfl
@[simp] theorem releaseData_rspErr : (releaseData s).rspErr = s.rspErr := rfl
@[simp] theorem releaseData_cfg : (releaseData s).cfg = s.cfg := rfl
@[simp] theorem releaseData_hostIn : (releaseData s).hostIn = s.hostIn := rfl
@[simp] theorem releaseData_lopIn : (releaseData s).lopIn = s.lopIn := rfl
@[simp] theorem releaseData_sdaIn : (releaseData s).sdaIn = s.sdaIn := rfl
@[simp] theorem releaseData_draws : (releaseData s).draws = s.draws := rfl
@[simp] theorem releaseData_trace :
    (releaseData s).trace = s.trace ++ [.op .releaseData s.cfg.bitDelayMicros] := rfl
@[simp] theorem releaseData_gpio :
    (releaseData s).gpio = s.gpio ++ [.setDir s.cfg.dataPin .input, .delay s.cfg.bitDelayMicros] := rfl

end releaseData

section assertDataLow

variable (s : State)

@[simp] theorem assertDataLow_pendingByteCount :
    (assertDataLow s).pendingByteCount = s.pendingByteCount := rfl
@[simp] theorem assertDataLow_stopOnCompletion :
    (assertDataLow s).stopOnCompletion = s.stopOnCompletion := rfl
@[simp] theorem assertDataLow_scl : (assertDataLow s).scl = s.scl := rfl
@[simp] theorem assertDataLow_sda : (assertDataLow s).sda = .assertedLow := rfl
@[simp] theorem assertDataLow_busy : (assertDataLow s).busy = s.busy := rfl
@[simp] theorem assertDataLow_cmd : (assertDataLow s).cmd = s.cmd := rfl
@[simp] theorem assertDataLow_sp : (assertDataLow s).sp = s.sp + 1 := rfl
@[simp] theorem assertDataLow_rx : (assertDataLow s).rx = s.rx := rfl
@[simp] theorem assertDataLow_rspValid : (assertDataLow s).rspValid = s.rspValid := rfl
@[simp] theorem assertDataLow_rspData : (assertDataLow s).rspData = s.rspData := rfl
@[simp] theorem assertDataLow_rspErr : (assertDataLow s).rspErr = s.rspErr := rfl
@[simp] theorem assertDataLow_cfg : (assertDataLow s).cfg = s.cfg := rfl
@[simp] theorem assertDataLow_hostIn : (assertDataLow s).hostIn = s.hostIn := rfl
@[simp] theorem assertDataLow_lopIn : (assertDataLow s).lopIn = s.lopIn := rfl
@[simp] theorem assertDataLow_sdaIn : (assertDataLow s).sdaIn = s.sdaIn := rfl
@[simp] theorem assertDataLow_draws : (assertDataLow s).draws = s.draws := rfl
@[simp] theorem assertDataLow_trace :
    (assertDataLow s).trace = s.trace ++ [.op .assertDataLow s.cfg.bitDelayMicros] := rfl
@[simp] theorem assertDataLow_gpio :
    (assertDataLow s).gpio = s.gpio ++ [.driveLow s.cfg.dataPin, .delay s.cfg.bitDelayMicros] := rfl

end assertDataLow

section readData

variable (s : State)

@[simp] theorem readData_pendingByteCount :
    (readData s).pendingByteCount = s.pendingByteCount := rfl
@[simp] theorem readData_stopOnCompletion :
    (readData s).stopOnCompletion = s.stopOnCompletion := rfl
@[simp] theorem readData_scl : (readData s).scl = s.scl := rfl
@[simp] theorem readData_sda : (readData s).sda = s.sda := rfl
@[simp] theorem readData_busy : (readData s).busy = s.busy := rfl
@[simp] theorem readData_cmd : (readData s).cmd = s.cmd := rfl
@[simp] theorem readData_sp : (readData s).sp = s.sp + 1 := rfl
@[simp] theorem readData_rx : (readData s).rx = shiftIn s.rx (levelBit (sdaLevel s)) := rfl
@[simp] theorem readData_rspValid : (readData s).rspValid = s.rspValid := rfl
@[simp] theorem readData_rspData : (readData s).rspData = s.rspData := rfl
@[simp] theorem readData_rspErr : (readData s).rspErr = s.rspErr := rfl
@[simp] theorem readData_cfg : (readData s).cfg = s.cfg := rfl
@[simp] theorem readData_hostIn : (readData s).hostIn = s.hostIn := rfl
@[simp] theorem readData_lopIn : (readData s).lopIn = s.lopIn := rfl
@[simp] theorem readData_sdaIn : (readData s).sdaIn = s.sdaIn.tail := rfl
@[simp] theorem readData_draws : (readData s).draws = s.draws + 1 := rfl
@[simp] theorem readData_trace :
    (readData s).trace = s.trace ++ [.sample (levelBit (sdaLevel s))] := rfl
@[simp] theorem readData_gpio :
    (readData s).gpio = s.gpio ++ [.readPin s.cfg.dataPin (sdaLevel s)] := rfl

end readData

@[simp] theorem complete_eq (v : Byte) (s : State) : complete v s = respond v false s := rfl

@[simp] theorem completeIllegal_eq (s : State) : completeIllegal s = respond 0x00#8 true s := rfl

end Sys2Proof.Machine
end

