-- ==== Sys2Proof/Laws/Ops.lean ====
section
/-! SUPPORT. What sampling, a line op and a list of line ops can do: one closed form (`perform_eq`)
and the fields no line op writes. -/

namespace Sys2Proof.Machine

@[simp] theorem levelBit_high : levelBit .high = true := rfl

@[simp] theorem levelBit_low : levelBit .low = false := rfl

/-- While SDA is released a sample is the level the devices present. -/
theorem sdaLevel_released {s : State} (h : s.sda = .released) : sdaLevel s = upcoming s 0 := by
  unfold sdaLevel
  rw [h]
  cases upcoming s 0 <;> rfl

theorem sdaLevel_asserted {s : State} (h : s.sda = .assertedLow) :
    sdaLevel s = Config.invalidRead s.draws := by
  unfold sdaLevel
  rw [h]

/-- A sample uses up one of the coming levels. -/
theorem upcoming_readData (s : State) (k : Nat) : upcoming (readData s) k = upcoming s (k + 1) := by
  cases h : s.sdaIn <;> simp [upcoming, h, Nat.add_assoc, Nat.add_comm 1 k]

theorem upcoming_congr {s t : State} (h : t.sdaIn = s.sdaIn) (h' : t.draws = s.draws) (k : Nat) :
    upcoming t k = upcoming s k := by
  unfold upcoming
  rw [h, h']

theorem upcomingBit_congr {s t : State} (h : t.sdaIn = s.sdaIn) (h' : t.draws = s.draws) :
    upcomingBit t = upcomingBit s :=
  funext fun k => congrArg levelBit (upcoming_congr h h' k)

theorem eventsOf_shift (d : Nat) (b : Nat → Bool) (k : Nat) (ops : List LineOp) :
    eventsOf d (fun j => b (j + 1)) k ops = eventsOf d b (k + 1) ops := by
  induction ops generalizing k with
  | nil => rfl
  | cons op ops ih => cases op <;> simp [eventsOf, ih]

theorem gpioOf_shift (c : Cfg) (lv : Nat → Level) (k : Nat) (ops : List LineOp) :
    gpioOf c (fun j => lv (j + 1)) k ops = gpioOf c lv (k + 1) ops := by
  induction ops generalizing k with
  | nil => rfl
  | cons op ops ih => cases op <;> simp [gpioOf, ih]

theorem rxOf_shift (b : Nat → Bool) (k : Nat) (rx : Byte) (ops : List LineOp) :
    rxOf (fun j => b (j + 1)) k rx ops = rxOf b (k + 1) rx ops := by
  induction ops generalizing k rx with
  | nil => rfl
  | cons op ops ih => cases op <;> simp [rxOf, ih]

/-- Everything a list of line ops does, when each of its samples is valid (R76 to R80, R109). -/
theorem perform_eq (ops : List LineOp) (s : State) (h : opsValid (linesOf s) ops = true) :
    perform ops s =
      { s with
        scl := ((linesOf s).afterOps ops).scl
        sda := ((linesOf s).afterOps ops).sda
        sp := s.sp + ops.length
        rx := rxOf (upcomingBit s) 0 s.rx ops
        sdaIn := s.sdaIn.drop (samplesIn ops)
        draws := s.draws + samplesIn ops
        trace := s.trace ++ eventsOf s.cfg.bitDelayMicros (upcomingBit s) 0 ops
        gpio := s.gpio ++ gpioOf s.cfg (upcoming s) 0 ops } := by
  induction ops generalizing s with
  | nil => simp [perform, Lines.afterOps, linesOf, rxOf, samplesIn, eventsOf, gpioOf]
  | cons op ops ih =>
    cases op with
    | readData =>
      have hs : s.sda = .released := by
        simp only [opsValid, linesOf, Bool.and_eq_true, beq_iff_eq] at h
        exact h.1
      have ht : opsValid (linesOf (readData s)) ops = true := by
        simp only [opsValid, Bool.and_eq_true] at h
        exact h.2
      have hu : upcoming (readData s) = fun j => upcoming s (j + 1) :=
        funext (upcoming_readData s)
      have hb : upcomingBit (readData s) = fun j => upcomingBit s (j + 1) := by
        funext j
        simp [upcomingBit, hu]
      have hl : linesOf (readData s) = linesOf s := rfl
      simp only [perform, lineOp]
      rw [ih _ ht, hb, hu, hl, eventsOf_shift, gpioOf_shift, rxOf_shift]
      simp [readData, sdaLevel_released hs, Lines.afterOps, Lines.after, rxOf, samplesIn, eventsOf,
        gpioOf, upcomingBit]
      omega
    | releaseClock =>
      have hu : upcoming (releaseClock s) = upcoming s := rfl
      have hb : upcomingBit (releaseClock s) = upcomingBit s := rfl
      simp only [perform, lineOp]
      rw [ih _ h, hb, hu]
      simp [releaseClock, Lines.afterOps, Lines.after, linesOf, rxOf, samplesIn, eventsOf, gpioOf]
      omega
    | assertClockLow =>
      have hu : upcoming (assertClockLow s) = upcoming s := rfl
      have hb : upcomingBit (assertClockLow s) = upcomingBit s := rfl
      simp only [perform, lineOp]
      rw [ih _ h, hb, hu]
      simp [assertClockLow, Lines.afterOps, Lines.after, linesOf, rxOf, samplesIn, eventsOf, gpioOf]
      omega
    | releaseData =>
      have hu : upcoming (releaseData s) = upcoming s := rfl
      have hb : upcomingBit (releaseData s) = upcomingBit s := rfl
      simp only [perform, lineOp]
      rw [ih _ h, hb, hu]
      simp [releaseData, Lines.afterOps, Lines.after, linesOf, rxOf, samplesIn, eventsOf, gpioOf]
      omega
    | assertDataLow =>
      have hu : upcoming (assertDataLow s) = upcoming s := rfl
      have hb : upcomingBit (assertDataLow s) = upcomingBit s := rfl
      simp only [perform, lineOp]
      rw [ih _ h, hb, hu]
      simp [assertDataLow, Lines.afterOps, Lines.after, linesOf, rxOf, samplesIn, eventsOf, gpioOf]
      omega

/-! The fields no line op writes, whatever the samples. -/

/-- What a line op leaves as it was (R112). -/
theorem lineOp_frame (op : LineOp) (s : State) :
    (lineOp op s).pendingByteCount = s.pendingByteCount ∧
      (lineOp op s).stopOnCompletion = s.stopOnCompletion ∧ (lineOp op s).busy = s.busy ∧
      (lineOp op s).cmd = s.cmd ∧ (lineOp op s).rspValid = s.rspValid ∧
      (lineOp op s).rspData = s.rspData ∧ (lineOp op s).rspErr = s.rspErr ∧
      (lineOp op s).cfg = s.cfg ∧ (lineOp op s).hostIn = s.hostIn ∧
      (lineOp op s).lopIn = s.lopIn := by
  cases op <;> simp [lineOp]

/-- What a list of line ops leaves as it was (R112). -/
theorem perform_frame (ops : List LineOp) (s : State) :
    (perform ops s).pendingByteCount = s.pendingByteCount ∧
      (perform ops s).stopOnCompletion = s.stopOnCompletion ∧ (perform ops s).busy = s.busy ∧
      (perform ops s).cmd = s.cmd ∧ (perform ops s).rspValid = s.rspValid ∧
      (perform ops s).rspData = s.rspData ∧ (perform ops s).rspErr = s.rspErr ∧
      (perform ops s).cfg = s.cfg ∧ (perform ops s).hostIn = s.hostIn ∧
      (perform ops s).lopIn = s.lopIn := by
  induction ops generalizing s with
  | nil => simp [perform]
  | cons op ops ih =>
    have h := lineOp_frame op s
    have h' := ih (lineOp op s)
    simp only [perform]
    simp_all

theorem perform_append (xs ys : List LineOp) (s : State) :
    perform (xs ++ ys) s = perform ys (perform xs s) := by
  induction xs generalizing s with
  | nil => rfl
  | cons x xs ih => exact ih (lineOp x s)

end Sys2Proof.Machine
end

