-- ==== Sys2Proof/Laws/Sequences.lean ====
section
/-! SUPPORT. What each internal sequence is to the laws of line ops: its length, its samples, that they
are valid, the line states it leaves and what it leaves in `rx`. -/

namespace Sys2Proof.Machine

section start

@[simp] theorem startOps_length : startOps.length = 4 := rfl
@[simp] theorem startOps_samples : samplesIn startOps = 0 := rfl
@[simp] theorem startOps_valid (l : Lines) : opsValid l startOps = true := rfl
@[simp] theorem startOps_after (l : Lines) : l.afterOps startOps = ⟨.assertedLow, .assertedLow⟩ := rfl
@[simp] theorem startOps_rx (b : Nat → Bool) (k : Nat) (v : Byte) : rxOf b k v startOps = v := rfl

end start

section stop

@[simp] theorem stopOps_length : stopOps.length = 3 := rfl
@[simp] theorem stopOps_samples : samplesIn stopOps = 0 := rfl
@[simp] theorem stopOps_valid (l : Lines) : opsValid l stopOps = true := rfl
@[simp] theorem stopOps_after (l : Lines) : l.afterOps stopOps = ⟨.released, .released⟩ := rfl
@[simp] theorem stopOps_rx (b : Nat → Bool) (k : Nat) (v : Byte) : rxOf b k v stopOps = v := rfl

end stop

section releaseBoth

@[simp] theorem releaseBothOps_length : releaseBothOps.length = 2 := rfl
@[simp] theorem releaseBothOps_samples : samplesIn releaseBothOps = 0 := rfl
@[simp] theorem releaseBothOps_valid (l : Lines) : opsValid l releaseBothOps = true := rfl
@[simp] theorem releaseBothOps_after (l : Lines) :
    l.afterOps releaseBothOps = ⟨.released, .released⟩ := rfl

end releaseBoth

section writeBit

@[simp] theorem writeBitOps_length (b : Bool) : (writeBitOps b).length = 3 := rfl
@[simp] theorem writeBitOps_samples (b : Bool) : samplesIn (writeBitOps b) = 0 := by
  cases b <;> rfl
@[simp] theorem writeBitOps_valid (l : Lines) (b : Bool) : opsValid l (writeBitOps b) = true := by
  cases b <;> rfl
theorem writeBitOps_after (l : Lines) (b : Bool) :
    l.afterOps (writeBitOps b) = ⟨.assertedLow, if b then .released else .assertedLow⟩ := by
  cases b <;> rfl
@[simp] theorem writeBitOps_rx (c : Nat → Bool) (k : Nat) (v : Byte) (b : Bool) :
    rxOf c k v (writeBitOps b) = v := by
  cases b <;> rfl

end writeBit

section ackCapture

@[simp] theorem ackCaptureOps_length : ackCaptureOps.length = 4 := rfl
@[simp] theorem ackCaptureOps_samples : samplesIn ackCaptureOps = 1 := rfl
@[simp] theorem ackCaptureOps_valid (l : Lines) : opsValid l ackCaptureOps = true := rfl
@[simp] theorem ackCaptureOps_after (l : Lines) :
    l.afterOps ackCaptureOps = ⟨.assertedLow, .released⟩ := rfl
@[simp] theorem ackCaptureOps_rx (b : Nat → Bool) (k : Nat) (v : Byte) :
    rxOf b k v ackCaptureOps = shiftIn v (b k) := rfl

end ackCapture

section writeByte

/-- `WRITE_BYTE` as its eight bits and the acknowledge. -/
theorem writeByteOps_eq (v : Byte) :
    writeByteOps v = writeBitOps (v.getLsbD 7) ++ writeBitOps (v.getLsbD 6) ++
      writeBitOps (v.getLsbD 5) ++ writeBitOps (v.getLsbD 4) ++ writeBitOps (v.getLsbD 3) ++
      writeBitOps (v.getLsbD 2) ++ writeBitOps (v.getLsbD 1) ++ writeBitOps (v.getLsbD 0) ++
      ackCaptureOps := by
  simp [writeByteOps, wireBits]

@[simp] theorem writeByteOps_length (v : Byte) : (writeByteOps v).length = 28 := rfl
@[simp] theorem writeByteOps_samples (v : Byte) : samplesIn (writeByteOps v) = 1 := by
  simp [writeByteOps_eq]
@[simp] theorem writeByteOps_valid (l : Lines) (v : Byte) : opsValid l (writeByteOps v) = true := by
  simp [writeByteOps_eq]
@[simp] theorem writeByteOps_after (l : Lines) (v : Byte) :
    l.afterOps (writeByteOps v) = ⟨.assertedLow, .released⟩ := by
  simp [writeByteOps_eq]
@[simp] theorem writeByteOps_rx (b : Nat → Bool) (k : Nat) (rx v : Byte) :
    rxOf b k rx (writeByteOps v) = shiftIn rx (b k) := by
  simp [writeByteOps_eq]

end writeByte

section readByte

@[simp] theorem readByteOps_length : readByteOps.length = 25 := rfl
@[simp] theorem readByteOps_samples : samplesIn readByteOps = 8 := rfl
@[simp] theorem readByteOps_valid (l : Lines) : opsValid l readByteOps = true := rfl
@[simp] theorem readByteOps_after (l : Lines) :
    l.afterOps readByteOps = ⟨.assertedLow, .released⟩ := rfl
theorem readByteOps_rx (b : Nat → Bool) (k : Nat) (v : Byte) :
    rxOf b k v readByteOps =
      shiftIn (shiftIn (shiftIn (shiftIn (shiftIn (shiftIn (shiftIn (shiftIn v (b k)) (b (k + 1)))
        (b (k + 2))) (b (k + 3))) (b (k + 4))) (b (k + 5))) (b (k + 6))) (b (k + 7)) := rfl

end readByte

section sendAck

@[simp] theorem sendAckOps_length : sendAckOps.length = 3 := rfl
@[simp] theorem sendAckOps_samples : samplesIn sendAckOps = 0 := rfl
@[simp] theorem sendAckOps_valid (l : Lines) : opsValid l sendAckOps = true := rfl
@[simp] theorem sendAckOps_after (l : Lines) :
    l.afterOps sendAckOps = ⟨.assertedLow, .assertedLow⟩ := rfl
@[simp] theorem sendNackOps_length : sendNackOps.length = 3 := rfl
@[simp] theorem sendNackOps_samples : samplesIn sendNackOps = 0 := rfl
@[simp] theorem sendNackOps_valid (l : Lines) : opsValid l sendNackOps = true := rfl
@[simp] theorem sendNackOps_after (l : Lines) :
    l.afterOps sendNackOps = ⟨.assertedLow, .released⟩ := rfl

end sendAck

/-- A sample taken in stands in bit 0, the earlier ones one bit higher (R106). -/
theorem getLsbD_shiftIn (v : Byte) (b : Bool) (j : Nat) :
    (shiftIn v b).getLsbD j =
      if j = 0 then b else if j < 8 then v.getLsbD (j - 1) else false := by
  unfold shiftIn
  rw [BitVec.getLsbD_or, BitVec.getLsbD_shiftLeft, BitVec.getLsbD_setWidth, BitVec.getLsbD_ofBool]
  rcases j with _ | j
  · simp
  · by_cases h : j + 1 < 8 <;> simp [h]

theorem ackBit_shiftIn (v : Byte) (b : Bool) : ackBit (shiftIn v b) = b :=
  (getLsbD_shiftIn v b 0).trans (if_pos rfl)

end Sys2Proof.Machine
end

