-- ==== Sys2Proof/Laws/Commands.lean ====
section
/-! SUPPORT. What performing a command's line ops and responding comes to. -/

namespace Sys2Proof.Machine

/-- Line ops with valid samples, then the response: every field of the state a command leaves. -/
theorem complete_perform (ops : List LineOp) (v : Byte) (s : State)
    (h : opsValid (linesOf s) ops = true) :
    complete v (perform ops s) =
      commandResult ops ((linesOf s).afterOps ops).scl ((linesOf s).afterOps ops).sda
        s.pendingByteCount s.stopOnCompletion v s := by
  rw [perform_eq ops s h]
  rfl

/-- The eight samples of `READ_BYTE` are the byte it returns, whatever `rx` held before. -/
theorem readByteOps_byte (s : State) (v : Byte) :
    rxOf (upcomingBit s) 0 v readByteOps = upcomingByte s := by
  rw [readByteOps_rx]
  apply BitVec.eq_of_getLsbD_eq
  intro i hi
  simp only [upcomingByte, BitVec.getLsbD_ofFnLE, getLsbD_shiftIn]
  interval_cases i <;> rfl

/-- The delay of line ops that take `n` setters. -/
theorem totalDelay_eventsFrom (s : State) (ops : List LineOp) (n : Nat)
    (h : samplesIn ops + n = ops.length) :
    totalDelay (eventsFrom s ops) = n * s.cfg.bitDelayMicros := by
  have hd := totalDelay_eventsOf s.cfg.bitDelayMicros (upcomingBit s) 0 ops
  rw [← h, Nat.add_mul] at hd
  unfold eventsFrom
  omega

end Sys2Proof.Machine
end

