-- ==== Sys2Proof/Laws/Encoding.lean ====
section
/-! SUPPORT. Command words bit by bit: the bits of a packed word, and what it takes to match a row. -/

namespace Sys2Proof

/-- The bits of a packed command word, by field (R55). -/
theorem getLsbD_packCommand (op : BitVec 4) (s : Bool) (a : Addr) (d : Byte) (i : Nat) :
    (packCommand op s a d).getLsbD i =
      if i < 8 then d.getLsbD i else if i < 15 then a.getLsbD (i - 8) else if i < 16 then false
      else if i < 17 then s else if i < 20 then false else op.getLsbD (i - 20) := by
  unfold packCommand
  simp only [BitVec.getLsbD_append]
  split
  · rfl
  split
  · rw [if_pos (by omega)]
  split
  · rw [if_neg (by omega), if_pos (by omega)]
    simp
  split
  · obtain rfl : i = 16 := by omega
    simp
  split
  · rw [if_neg (by omega), if_neg (by omega), if_neg (by omega), if_pos (by omega)]
    simp
  · rw [if_neg (by omega), if_neg (by omega), if_neg (by omega), if_neg (by omega)]
    rfl

/-- A word matches a row when each bit the row fixes has the row's value (R57). -/
theorem hits_iff (r : Row) (w : CmdWord) :
    r.hits w = true ↔
      ∀ i < 24, (w.getLsbD i && r.mask.getLsbD i) = r.pattern.getLsbD i := by
  unfold Row.hits
  rw [beq_iff_eq]
  constructor
  · intro h i _
    rw [← h, BitVec.getLsbD_and]
  · intro h
    apply BitVec.eq_of_getLsbD_eq
    intro i hi
    rw [BitVec.getLsbD_and]
    exact h i hi

/-- A property of the 24 bits of a word, bit by bit. -/
theorem forall_lt_24 (P : Nat → Prop) :
    (∀ i < 24, P i) ↔
      P 0 ∧ P 1 ∧ P 2 ∧ P 3 ∧ P 4 ∧ P 5 ∧ P 6 ∧ P 7 ∧ P 8 ∧ P 9 ∧ P 10 ∧ P 11 ∧ P 12 ∧ P 13 ∧
        P 14 ∧ P 15 ∧ P 16 ∧ P 17 ∧ P 18 ∧ P 19 ∧ P 20 ∧ P 21 ∧ P 22 ∧ P 23 := by
  constructor
  · intro h
    refine ⟨?_, ?_, ?_, ?_, ?_, ?_, ?_, ?_, ?_, ?_, ?_, ?_, ?_, ?_, ?_, ?_, ?_, ?_, ?_, ?_, ?_, ?_,
      ?_, ?_⟩ <;> exact h _ (by omega)
  · rintro ⟨h0, h1, h2, h3, h4, h5, h6, h7, h8, h9, h10, h11, h12, h13, h14, h15, h16, h17, h18, h19,
      h20, h21, h22, h23⟩ i hi
    interval_cases i <;> assumption

end Sys2Proof
end

