-- ==== Sys2Proof/Laws/PerInstr.lean ====
section
/-! SUPPORT. The per-instruction family `RowMatch`: an instruction has one encoding, a command word that
matches a row of the opcode map or a line-op code, and which of the two it is says whether the host
can issue it (R57, R64, R71). -/

namespace Sys2Proof.Laws.RowMatch

/-- The word, or the code, of an instruction. -/
def Statement (i : Instr) : Prop :=
  (i.hostIssuable = true ∧ encodeLop i = none ∧
      ∃ w, encodeCommand i = some w ∧ ∃ r ∈ commandRows, r.hits w = true) ∨
    (i.hostIssuable = false ∧ encodeCommand i = none ∧ ∃ c, encodeLop i = some c)

theorem cmdBegin : Statement .cmdBegin :=
  .inl ⟨rfl, rfl, _, rfl, rowBegin, by decide, by decide⟩

theorem cmdEnd : Statement .cmdEnd :=
  .inl ⟨rfl, rfl, _, rfl, rowEnd, by decide, by decide⟩

theorem beginTx (addr : Addr) : Statement (.beginTx addr) :=
  .inl ⟨rfl, rfl, _, rfl, rowBeginTx, by decide, by
    rw [hits_iff, forall_lt_24]
    simp only [rowBeginTx, getLsbD_packCommand]
    simp⟩

theorem write (byte : Byte) : Statement (.write byte) :=
  .inl ⟨rfl, rfl, _, rfl, rowWrite, by decide, by
    rw [hits_iff, forall_lt_24]
    simp only [rowWrite, getLsbD_packCommand]
    simp⟩

theorem endTx (stop : Bool) : Statement (.endTx stop) :=
  .inl ⟨rfl, rfl, _, rfl, rowEndTx, by decide, by cases stop <;> decide⟩

theorem requestFrom (addr : Addr) (qty : Byte) (stop : Bool) :
    Statement (.requestFrom addr qty stop) :=
  .inl ⟨rfl, rfl, _, rfl, rowRequestFrom, by decide, by
    rw [hits_iff, forall_lt_24]
    simp only [rowRequestFrom, getLsbD_packCommand]
    simp⟩

theorem read : Statement .read :=
  .inl ⟨rfl, rfl, _, rfl, rowRead, by decide, by decide⟩

theorem releaseClock : Statement .releaseClock := .inr ⟨rfl, rfl, _, rfl⟩

theorem assertClockLow : Statement .assertClockLow := .inr ⟨rfl, rfl, _, rfl⟩

theorem releaseData : Statement .releaseData := .inr ⟨rfl, rfl, _, rfl⟩

theorem assertDataLow : Statement .assertDataLow := .inr ⟨rfl, rfl, _, rfl⟩

theorem readData : Statement .readData := .inr ⟨rfl, rfl, _, rfl⟩

end Sys2Proof.Laws.RowMatch
end

