-- ==== Sys2Proof/Laws/Step.lean ====
section
/-! SUPPORT. What a step can do, once: the cases of a step that gives a next state, and the rule by which
a property that every shared operation keeps is kept by every instruction and by every step. -/

namespace Sys2Proof.Machine

theorem wordOutcome_next {w : CmdWord} {t u : State} (h : wordOutcome w t = .next u) :
    (∃ i, decodeCommand w = some i) ∧ u = t := by
  unfold wordOutcome at h
  split at h
  · exact ⟨⟨_, ‹_›⟩, by simpa using h.symm⟩
  · simp at h

/-- A word that decodes leads to a next state. -/
theorem wordOutcome_legal {w : CmdWord} {i : Instr} (h : decodeCommand w = some i) (t : State) :
    wordOutcome w t = .next t := by simp [wordOutcome, h]

/-- A word that does not decode is refused with the state that it leads to. -/
theorem wordOutcome_illegal {w : CmdWord} (h : decodeCommand w = none) (t : State) :
    wordOutcome w t = .refused (.illegalWord w t) := by simp [wordOutcome, h]

/-- The ways a step gives a next state (R29, R64, R69, R151, R153, R157). -/
theorem step_cases {s t : State} (h : step s = .next t) :
    s.cfg.pinsDistinct = true ∧
      ((∃ c i, s.lopIn = some c ∧ decodeLop c = some i ∧
          exec i { s with lopIn := none } = .next t) ∨
        s.lopIn = none ∧
          ((∃ rest, s.hostIn = .reset :: rest ∧ t = resetEngine { s with hostIn := rest }) ∨
            (s.busy = true ∧ (∃ i, decodeCommand s.cmd = some i) ∧ t = advance s) ∨
            s.busy = false ∧
              ((∃ w rest i, s.hostIn = .command w :: rest ∧ decodeCommand w = some i ∧
                  exec i (accept w { s with hostIn := rest }) = .next t) ∨
                (∃ w n rest i, s.hostIn = .commandThenReset w n :: rest ∧
                  decodeCommand w = some i ∧ t = resetEngine (moves n (accept w { s with hostIn := rest }))) ∨
                (s.hostIn = [] ∧ t = s)))) := by
  unfold step fetch at h
  by_cases hc : s.cfg.pinsDistinct = true
  swap
  · simp [hc] at h
  refine ⟨hc, ?_⟩
  rw [if_pos hc] at h
  cases hl : s.lopIn with
  | some c =>
    rw [hl] at h
    cases hd : decodeLop c with
    | none => simp [fetchLop, hd] at h
    | some i => exact .inl ⟨c, i, rfl, hd, by simpa [fetchLop, hl, hd] using h⟩
  | none =>
    rw [hl] at h
    refine .inr ⟨rfl, ?_⟩
    cases hb : s.busy with
    | true =>
      have move (hm : fetchHost s = fetchMove s) :
          (∃ i, decodeCommand s.cmd = some i) ∧ t = advance s :=
        wordOutcome_next (by simpa [hm, fetchMove] using h)
      cases hh : s.hostIn with
      | nil => exact .inr (.inl ⟨rfl, move (by simp [fetchHost, hh, hb])⟩)
      | cons x rest =>
        cases x with
        | reset => exact .inl ⟨rest, rfl, by simpa [fetchHost, hl, hh, hb] using h.symm⟩
        | command w => exact .inr (.inl ⟨rfl, move (by simp [fetchHost, hh, hb])⟩)
        | commandThenReset w n => exact .inr (.inl ⟨rfl, move (by simp [fetchHost, hh, hb])⟩)
    | false =>
      cases hh : s.hostIn with
      | nil => exact .inr (.inr ⟨rfl, .inr (.inr ⟨rfl, by simpa [fetchHost, hl, hh, hb] using h.symm⟩)⟩)
      | cons x rest =>
        cases x with
        | reset => exact .inl ⟨rest, rfl, by simpa [fetchHost, hl, hh, hb] using h.symm⟩
        | command w =>
          cases hd : decodeCommand w with
          | some i =>
            exact .inr (.inr ⟨rfl, .inl ⟨w, rest, i, rfl, hd, by
              simpa [fetchHost, hl, hh, hb, fetchCommand, hd] using h⟩⟩)
          | none => simp [fetchHost, hh, hb, fetchCommand, wordOutcome, hd] at h
        | commandThenReset w n =>
          obtain ⟨⟨i, hi⟩, ht⟩ := wordOutcome_next (w := w)
            (t := resetEngine (moves n (accept w { s with hostIn := rest })))
            (by simpa [fetchHost, hl, hh, hb, fetchThenReset] using h)
          exact .inr (.inr ⟨rfl, .inr (.inl ⟨w, n, rest, i, rfl, hi, by simpa only [hb, hl] using ht⟩)⟩)

/-- A property that the operations of an instruction keep. -/
structure KeptByOps (P : State → Prop) : Prop where
  lineOp : ∀ op s, P s → P (lineOp op s)
  respond : ∀ v e s, P s → P (respond v e s)
  storeTransaction : ∀ q p s, P s → P (storeTransaction q p s)
  decrementPending : ∀ s, P s → P (decrementPending s)

theorem KeptByOps.perform {P : State → Prop} (k : KeptByOps P) (ops : List LineOp) {s : State}
    (h : P s) : P (perform ops s) := by
  induction ops generalizing s with
  | nil => exact h
  | cons op ops ih => exact ih (k.lineOp op s h)

/-- Every instruction keeps what the operations keep. -/
theorem KeptByOps.exec {P : State → Prop} (k : KeptByOps P) {i : Instr} {s t : State} (h : P s)
    (he : exec i s = .next t) : P t := by
  cases i with
  | cmdBegin => cases he; exact k.respond _ _ _ (k.perform _ h)
  | cmdEnd => cases he; exact k.respond _ _ _ (k.perform _ h)
  | beginTx addr => cases he; exact k.respond _ _ _ (k.perform _ h)
  | write byte => cases he; exact k.respond _ _ _ (k.perform _ h)
  | endTx stop => cases he; exact k.respond _ _ _ (k.perform _ h)
  | requestFrom addr qty stop =>
    cases he
    exact k.respond _ _ _ (k.perform _ (k.storeTransaction _ _ _ h))
  | read =>
    simp only [Machine.exec, execRead] at he
    split at he
    · cases he
      exact k.respond _ _ _ h
    · cases he
      exact k.respond _ _ _ (k.perform _ (k.decrementPending _ (k.perform _ h)))
  | releaseClock => cases he; exact k.lineOp .releaseClock _ h
  | assertClockLow => cases he; exact k.lineOp .assertClockLow _ h
  | releaseData => cases he; exact k.lineOp .releaseData _ h
  | assertDataLow => cases he; exact k.lineOp .assertDataLow _ h
  | readData => cases he; exact k.lineOp .readData _ h

theorem KeptByOps.beforeOp {P : State → Prop} (k : KeptByOps P) (i : Instr) {s : State} (h : P s) :
    P (beforeOp i s) := by
  cases i with
  | requestFrom addr qty stop =>
    simp only [Machine.beforeOp]
    split
    · exact k.storeTransaction _ _ _ h
    · exact h
  | read =>
    simp only [Machine.beforeOp]
    split
    · exact k.decrementPending _ h
    · exact h
  | cmdBegin | cmdEnd | beginTx _ | write _ | endTx _ | releaseClock | assertClockLow | releaseData
  | assertDataLow | readData => exact h

/-- A move keeps what the operations keep. -/
theorem KeptByOps.advance {P : State → Prop} (k : KeptByOps P) {s : State} (h : P s) :
    P (advance s) := by
  unfold Machine.advance
  split
  · rename_i i _
    unfold moveOf
    dsimp only
    split
    · exact k.lineOp _ _ (k.beforeOp i h)
    · exact k.respond _ _ _ (k.beforeOp i h)
  · exact k.respond _ _ _ h

theorem KeptByOps.moves {P : State → Prop} (k : KeptByOps P) (n : Nat) {s : State} (h : P s) :
    P (moves n s) := by
  induction n generalizing s with
  | zero => exact h
  | succ n ih =>
    unfold Machine.moves
    split
    · exact ih (k.advance h)
    · exact h

/-- A property that the operations keep, and with them acceptance, reset and the taking of an input,
is kept by every step. -/
theorem KeptByOps.step {P : State → Prop} (k : KeptByOps P)
    (haccept : ∀ w s, P s → P (accept w s)) (hreset : ∀ s, P s → P (resetEngine s))
    (hhost : ∀ s rest, P s → P { s with hostIn := rest })
    (hlop : ∀ s, P s → P { s with lopIn := none })
    {s t : State} (h : P s) (hs : step s = .next t) : P t := by
  obtain ⟨-, ⟨c, i, -, -, he⟩ | ⟨-, ⟨rest, -, rfl⟩ | ⟨-, -, rfl⟩ |
    ⟨-, ⟨w, rest, i, -, -, he⟩ | ⟨w, n, rest, i, -, -, rfl⟩ | ⟨-, rfl⟩⟩⟩⟩ := step_cases hs
  · exact k.exec (hlop _ h) he
  · exact hreset _ (hhost _ _ h)
  · exact k.advance h
  · exact k.exec (haccept _ _ (hhost _ _ h)) he
  · exact hreset _ (k.moves n (haccept _ _ (hhost _ _ h)))
  · exact h

end Sys2Proof.Machine
end

