-- ==== Sys2Proof/Tests/Slice0.lean ====
section
/-! SUPPORT. Tests with their expected results from spec/ (W, V and P are the vectors of
95_test_vectors.md), and for each statement with hypotheses a concrete state that meets them. -/

namespace Sys2Proof.Tests

open Machine

/-- The distinct pins of the test configuration, with a delay of 5. -/
def cfg : Cfg := ⟨⟨4⟩, ⟨7⟩, 5, .runtime⟩

/-- An idle engine with the given line states, count and stop bit, whose coming samples are the bits
`oracle`. -/
def engine (scl sda : LineState) (pending : Byte) (stop : Bool) (oracle : List Bool) : State :=
  { State.construct cfg scl sda with
    pendingByteCount := pending
    stopOnCompletion := stop
    sdaIn := oracle.map fun b => if b then .high else .low }

/-- `s` with the host presenting `w`. -/
def presenting (w : CmdWord) (s : State) : State := { s with hostIn := [.command w] }

/-- A property of the next state, if there is one. -/
def after (o : Host.Outcome State Fault Refusal) (p : State → Bool) : Bool :=
  match o with
  | .next t => p t
  | .fault _ => false
  | .refused _ => false

/-- The state the hardware is in after a step, an illegal word included, which the model refuses. -/
def left (o : Host.Outcome State Fault Refusal) (p : State → Bool) : Bool :=
  match o with
  | .refused (.illegalWord _ t) => p t
  | .next _ | .fault _ | .refused _ => after o p

/-- A ready engine. -/
def ready : State := engine .released .released 0 false []

/-- One row of V17: from `s`, the word `w` gives the response, the op count, the delay, the conditions
and the line states, count and stop bit of the row. -/
def row (s : State) (w : CmdWord) (rsp : Byte) (err : Bool) (ops delay : Nat) (cs : List Condition)
    (scl sda : LineState) (pending : Byte) (stop : Bool) : Bool :=
  left (step (presenting w s)) fun t =>
    t.rspValid && t.rspData == rsp && t.rspErr == err && !t.busy && (opsOf t.trace).length == ops &&
      totalDelay t.trace == delay && conditions Held.none (linesOf s) t.trace == cs &&
      t.scl == scl && t.sda == sda && t.pendingByteCount == pending && t.stopOnCompletion == stop

/-! ### Well-formedness: an ill-formed term for each check -/

theorem test_one_pin_refused : ({ cfg with clockPin := ⟨4⟩ } : Cfg).pinsDistinct = false := by decide
theorem test_two_pins_accepted : cfg.pinsDistinct = true := by decide
theorem test_shared_pin_refused :
    instancesOk [cfg, { cfg with dataPin := ⟨7⟩, clockPin := ⟨9⟩ }] = false := by decide
theorem test_own_pins_accepted :
    instancesOk [cfg, { cfg with dataPin := ⟨8⟩, clockPin := ⟨9⟩ }] = true := by decide
theorem test_line_op_not_issuable : Instr.readData.hostIssuable = false := by decide
theorem test_addr_operand_128_refused : addrOperandOk 0x80 = false := by decide
theorem test_byte_operand_256_refused : byteOperandOk 256 = false := by decide
theorem test_stop_operand_2_refused : stopOperandOk 2 = false := by decide

/-! ### Decoding: words written out bit by bit from R58, codes from R64 (V1 to V3) -/

theorem test_decode_begin : decodeCommand 0b0001_000_0_0_0000000_00000000#24 = some .cmdBegin := by
  decide
theorem test_decode_end : decodeCommand 0b0010_000_0_0_0000000_00000000#24 = some .cmdEnd := by
  decide
theorem test_decode_begin_tx :
    decodeCommand 0b0011_000_0_0_1010000_00000000#24 = some (.beginTx 0x50#7) := by decide
theorem test_decode_write :
    decodeCommand 0b0100_000_0_0_0000000_10100101#24 = some (.write 0xA5#8) := by decide
theorem test_decode_end_tx :
    decodeCommand 0b0101_000_1_0_0000000_00000000#24 = some (.endTx true) := by decide
theorem test_decode_request_from :
    decodeCommand 0b0110_000_1_0_1111111_11111111#24 = some (.requestFrom 0x7F#7 0xFF#8 true) := by
  decide
theorem test_decode_read : decodeCommand 0b0111_000_0_0_0000000_00000000#24 = some .read := by decide
theorem test_decode_line_ops :
    [0b000#3, 0b001#3, 0b010#3, 0b011#3, 0b110#3].map decodeLop =
      [some .releaseClock, some .assertClockLow, some .releaseData, some .assertDataLow,
        some .readData] := by decide
theorem test_decode_reserved_line_ops :
    [0b100#3, 0b101#3, 0b111#3].map decodeLop = [none, none, none] := by decide

/-- The illegal words of V2. -/
theorem test_decode_illegal :
    ([0x000000#24, 0x100001#24, 0x180000#24, 0x308000#24, 0x305001#24, 0x400100#24, 0x520000#24,
      0x500001#24, 0x61D003#24, 0x6FFFFF#24, 0x710000#24, 0x800000#24, 0xF00000#24,
      0xFFFFFF#24].all fun w => decodeCommand w == none) = true := by decide

/-- The lines of V1, with the pseudo-forms of R68 and the range error of R67. -/
theorem test_assembler :
    ["BEGIN", "END", "BEGIN_TX 0x7F", "WRITE 255", "END_TX 0", "END_TX ; stop",
      "REQUEST_FROM 0x50, 3, 1", "REQUEST_FROM 0x50, 3", "READ", "; nothing"].map
        (fun l => assembleLine l.toList) =
      [some [0x100000#24], some [0x200000#24], some [0x307F00#24], some [0x4000FF#24],
        some [0x500000#24], some [0x510000#24], some [0x615003#24], some [0x615003#24],
        some [0x700000#24], some []] := by decide
theorem test_assembler_range : assembleLine "BEGIN_TX 0x80".toList = none := by decide

/-! ### Line driver (V4, V5) and bus conditions (V6 to V8) -/

theorem test_release_clock :
    after (exec .releaseClock (engine .assertedLow .assertedLow 0 false [])) (fun t =>
      t.scl == .released && t.sda == .assertedLow && t.sp == 1 &&
        t.trace == [.op .releaseClock 5] && t.gpio == [.setDir ⟨7⟩ .input, .delay 5]) = true := by
  decide
theorem test_assert_clock_low :
    after (exec .assertClockLow (engine .released .released 0 false [])) (fun t =>
      t.scl == .assertedLow && t.sda == .released && t.trace == [.op .assertClockLow 5] &&
        t.gpio == [.driveLow ⟨7⟩, .delay 5]) = true := by decide
theorem test_release_data :
    after (exec .releaseData (engine .released .assertedLow 0 false [])) (fun t =>
      t.sda == .released && t.scl == .released &&
        conditions Held.none ⟨.released, .assertedLow⟩ t.trace == [.stop] &&
        t.gpio == [.setDir ⟨4⟩ .input, .delay 5]) = true := by decide
theorem test_assert_data_low :
    after (exec .assertDataLow (engine .released .released 0 false [])) (fun t =>
      t.sda == .assertedLow &&
        conditions Held.none ⟨.released, .released⟩ t.trace == [.start] &&
        t.gpio == [.driveLow ⟨4⟩, .delay 5]) = true := by decide
theorem test_read_data :
    after (exec .readData (engine .released .released 0 false [false])) (fun t =>
      t.trace == [.sample false] && t.sp == 1 && t.gpio == [.readPin ⟨4⟩ .low]) = true := by decide

/-! ### Commands, one at a time (V17, its rows in order: the delay is 5) -/

/-- V17, row a. -/
theorem test_v17_begin :
    row (engine .released .released 0 false [])
      0x100000#24 0x00 false 2 10 [] .released .released 0 false = true := by decide
/-- V17, row b. -/
theorem test_v17_end :
    row (engine .assertedLow .assertedLow 2 true [])
      0x200000#24 0x00 false 2 10 [.stop] .released .released 2 true = true := by decide
/-- V17, rows c, d, e. -/
theorem test_v17_begin_tx :
    row (engine .released .released 0 false [false])
      0x305000#24 0x00 false 32 155 [.start] .assertedLow .released 0 false &&
    row (engine .released .released 0 false [true])
      0x305000#24 0x01 false 32 155 [.start] .assertedLow .released 0 false &&
    row (engine .assertedLow .released 0 false [false])
      0x305000#24 0x00 false 32 155 [.start] .assertedLow .released 0 false = true := by decide
/-- V17, rows f, g, h, i. -/
theorem test_v17_write :
    row (engine .assertedLow .released 0 false [false])
      0x40000E#24 0x00 false 28 135 [] .assertedLow .released 0 false &&
    row (engine .assertedLow .released 0 false [true])
      0x40000E#24 0x01 false 28 135 [] .assertedLow .released 0 false &&
    row (engine .released .released 0 false [false])
      0x400040#24 0x00 false 28 135 [.start] .assertedLow .released 0 false &&
    row (engine .released .released 0 false [false])
      0x400080#24 0x00 false 28 135 [] .assertedLow .released 0 false = true := by decide
/-- V17, rows j, k, l, m. -/
theorem test_v17_end_tx :
    row (engine .assertedLow .released 0 false [])
      0x510000#24 0x00 false 3 15 [.stop] .released .released 0 false &&
    row (engine .assertedLow .released 0 false [])
      0x500000#24 0x00 false 0 0 [] .assertedLow .released 0 false &&
    row (engine .released .released 0 false [])
      0x510000#24 0x00 false 3 15 [.start, .stop] .released .released 0 false &&
    row (engine .assertedLow .released 3 true [])
      0x510000#24 0x00 false 3 15 [.stop] .released .released 3 true = true := by decide
/-- V17, rows n, o, p, q. -/
theorem test_v17_request_from :
    row (engine .released .released 0 false [false])
      0x615003#24 0x03 false 32 155 [.start] .assertedLow .released 3 true &&
    row (engine .released .released 0 false [true])
      0x615003#24 0x00 false 32 155 [.start] .assertedLow .released 3 true &&
    row (engine .released .released 0 false [false])
      0x615000#24 0x00 false 32 155 [.start] .assertedLow .released 0 true &&
    row (engine .assertedLow .assertedLow 1 false [false])
      0x602002#24 0x02 false 32 155 [.stop, .start] .assertedLow .released 2 false = true := by decide
/-- V17, rows r, s, t, u, v. -/
theorem test_v17_read :
    row (engine .assertedLow .released 3 true [false, false, false, true, false, false, false, true])
      0x700000#24 0x11 false 28 100 [] .assertedLow .assertedLow 2 true &&
    row (engine .assertedLow .assertedLow 1 true [false, false, true, true, false, false, true, true])
      0x700000#24 0x33 false 31 115 [.stop] .released .released 0 true &&
    row (engine .assertedLow .assertedLow 1 false [false, false, true, true, false, false, true, true])
      0x700000#24 0x33 false 28 100 [] .assertedLow .released 0 false &&
    row (engine .released .released 0 true [])
      0x700000#24 0xFF false 0 0 [] .released .released 0 true &&
    row (engine .assertedLow .released 1 true [true, true, true, true, true, true, true, true])
      0x700000#24 0xFF false 31 115 [.stop] .released .released 0 true = true := by decide
/-- V17, rows w, x: the state left behind, and the refusal of D4. -/
theorem test_v17_illegal :
    !after (step (presenting 0x000000#24 ready)) (fun _ => true) &&
    row (engine .assertedLow .released 0 false [])
      0x000000#24 0x00 true 0 0 [] .assertedLow .released 0 false &&
    row (engine .released .released 5 true [])
      0x100001#24 0x00 true 0 0 [] .released .released 5 true = true := by decide

/-- V13: `WRITE 0xA5` from `(A, A)` puts `1,0,1,0,0,1,0,1` and the released ninth bit on SDA. -/
theorem test_v13_edges :
    after (exec (.write 0xA5#8) (engine .assertedLow .assertedLow 0 false [false])) (fun t =>
      sdaAtEdges ⟨.assertedLow, .assertedLow⟩ t.trace ==
        [.released, .assertedLow, .released, .assertedLow, .assertedLow, .released, .assertedLow,
          .released, .released]) = true := by decide

/-- V20: a `READ` issued first after reset returns 0xFF with no events, whatever the lines. -/
theorem test_v20 :
    after (step (presenting 0x700000#24 State.reset)) (fun t =>
      t.rspData == 0xFF#8 && t.gpio == []) = true := by decide

/-- R153: a reset three moves into `BEGIN_TX 0x50` leaves the lines as START's third op left them. -/
theorem test_reset_in_command :
    after (step { engine .released .released 7 true [] with
        hostIn := [.commandThenReset 0x305000#24 3] }) (fun t =>
      t.scl == .released && t.sda == .assertedLow && t.pendingByteCount == 0 && !t.busy &&
        !t.rspValid && (opsOf t.trace).length == 3) = true := by decide

/-- R153: a reset of a busy engine between two of its moves. -/
theorem test_reset_busy :
    after (step { engine .released .assertedLow 7 true [] with
        busy := true, sp := 3, cmd := 0x305000#24, hostIn := [.reset] }) (fun t =>
      t.scl == .released && t.sda == .assertedLow && t.pendingByteCount == 0 && !t.stopOnCompletion &&
        !t.busy && t.sp == 0 && t.trace == []) = true := by decide

/-- R37: a `READ` that finds nothing pending leaves WRITE_OPEN as it is; the one that brings the count
to 0 ends a read. -/
theorem test_phases :
    Phase.writeOpen.after 0 0 .read = .writeOpen ∧ Phase.readOpen.after 1 0 .read = .idle ∧
      Phase.readOpen.after 2 1 .read = .readOpen := by decide

/-- R154: a host issues `BEGIN` first, and `END` only after it. -/
theorem test_begin_first :
    HostView.initial.mayIssue .cmdBegin = true ∧ HostView.initial.mayIssue .cmdEnd = false ∧
      (HostView.initial.after .cmdBegin ready ready).mayIssue .cmdEnd = true := by decide

/-! ### Witnesses: a concrete state and operands for the hypotheses of each statement -/

theorem witness_DecodedWordIsEncoding :
    decodeCommand 0x305000#24 = some (.beginTx 0x50#7) ∧ decodeLop 0b110#3 = some .readData := by
  decide
theorem witness_OperandFields :
    decodeCommand 0x307F00#24 = some (.beginTx 0x7F#7) ∧
      decodeCommand 0x4000FF#24 = some (.write 0xFF#8) ∧
      decodeCommand 0x500000#24 = some (.endTx false) ∧
      decodeCommand 0x617FFF#24 = some (.requestFrom 0x7F#7 0xFF#8 true) := by decide
theorem witness_RowsExclusive :
    rowRead ∈ commandRows ∧ 0x700000#24 &&& rowRead.mask = rowRead.pattern := by decide
theorem witness_ReservedLineOpsRefused :
    ({ ready with lopIn := some 0b100#3 } : State).cfg.pinsDistinct = true := by decide
theorem witness_StepRunsDecodedCommand :
    Ready (presenting 0x100000#24 ready) ∧
      (presenting 0x100000#24 ready).hostIn = .command 0x100000#24 :: [] ∧
      decodeCommand 0x100000#24 = some .cmdBegin := by decide
theorem witness_StepRunsLineOp :
    ({ ready with lopIn := some 0b000#3 } : State).cfg.pinsDistinct = true ∧
      decodeLop 0b000#3 = some .releaseClock := by decide
theorem witness_PlacedWordRuns :
    ready.cfg.pinsDistinct = true ∧ decodeTableWord 24 0x617FFF =
      some (.requestFrom 0x7F#7 0xFF#8 true) ∧ decodeTableWord 8 6 = some .readData := by decide
theorem witness_IllegalWord :
    Ready (presenting 0x000000#24 ready) ∧
      (presenting 0x000000#24 ready).hostIn = .command 0x000000#24 :: [] ∧
      decodeCommand 0x000000#24 = none ∧
      left (step (presenting 0x000000#24 ready)) (fun t => t.rspErr) = true := by decide
theorem witness_BusyIgnoresCommands :
    AtHost (accept 0x305000#24 ready) ∧ (accept 0x305000#24 ready).busy = true ∧
      AtHost (accept 0x000000#24 ready) ∧ (accept 0x000000#24 ready).busy = true ∧
      [HostInput.command 0x700000#24].head? ≠ some .reset ∧
      ([] : List HostInput).head? ≠ some .reset := by decide
theorem witness_IdleRests : Ready ready ∧ ready.hostIn = [] := by decide
theorem witness_SamePinsRefused :
    ({ ready with cfg := { cfg with clockPin := ⟨4⟩ } } : State).cfg.dataPin = ⟨4⟩ := by decide
theorem witness_ResetDuringCommand :
    Ready ({ ready with hostIn := [.commandThenReset 0x305000#24 3] } : State) ∧
      decodeCommand 0x305000#24 = some (.beginTx 0x50#7) ∧
      (moves 3 (accept 0x305000#24 ready)).busy = true ∧
      AtHost ({ ready with hostIn := [.reset] } : State) ∧
      AtHost ({ accept 0x305000#24 ready with hostIn := [.reset] } : State) ∧
      Ready ({ ready with hostIn := [.commandThenReset 0x000000#24 0] } : State) ∧
      decodeCommand 0x000000#24 = none := by decide
theorem witness_CommandIsItsMoves : encodeCommand .read = some 0x700000#24 := by decide
theorem witness_ReadDataResult : ready.sda = .released := by decide
theorem witness_InvalidReadIsFree : (engine .released .assertedLow 0 false []).sda = .assertedLow := by
  decide
theorem witness_HeldLineDefeatsConditions :
    (⟨true, false⟩ : Held).sda = true ∨ (⟨true, false⟩ : Held).scl = true := by decide
theorem witness_SclAsserted : (linesOf (engine .assertedLow .released 0 false [])).scl = .assertedLow :=
  by decide
theorem witness_HostIssuable (s : State) :
    Instr.cmdBegin.hostIssuable = true ∧ ∃ t, exec .cmdBegin s = .next t := ⟨rfl, _, rfl⟩
theorem witness_NotHostIssuable (s : State) :
    Instr.readData.hostIssuable = false ∧ ∃ t, exec .readData s = .next t := ⟨rfl, _, rfl⟩
theorem witness_BeginEndIdempotent :
    Ready ({ ready with hostIn := hostProgram [0x100000#24, 0x200000#24] } : State) ∧
      [0x100000#24, 0x200000#24] ≠ [] ∧
      ∀ w ∈ [0x100000#24, 0x200000#24], w = 0x100000#24 ∨ w = 0x200000#24 :=
  ⟨by decide, by decide, fun w hw => by simpa using hw⟩
theorem witness_BeginTwice (s : State) :
    ∃ t u, exec .cmdBegin s = .next t ∧ exec .cmdBegin t = .next u := ⟨_, _, rfl, rfl⟩
theorem witness_WriteOnIdleBus : ready.scl = .released ∧ ready.sda = .released := by decide
theorem witness_ReadResult :
    (engine .released .released 0 true []).pendingByteCount = 0 ∧
      1 < (engine .assertedLow .released 255 true []).pendingByteCount.toNat ∧
      1 < (engine .assertedLow .released 2 true []).pendingByteCount.toNat ∧
      (engine .assertedLow .assertedLow 1 false []).pendingByteCount = 1 ∧
      (engine .assertedLow .assertedLow 1 true []).stopOnCompletion = true := by decide
theorem witness_ZeroQuantityRead :
    ∃ t u, exec (.requestFrom 0x50#7 0 true) ready = .next t ∧
      exec .read (accept 0x700000#24 t) = .next u :=
  ⟨_, _, rfl, rfl⟩
theorem witness_ReadTransaction_one :
    Ready ({ engine .assertedLow .assertedLow 0 false [false] with
        hostIn := hostProgram (0x605001#24 :: List.replicate (1#8).toNat 0x700000#24) } : State) ∧
      (1#8 : Byte) ≠ 0 ∧ encodeCommand (.requestFrom 0x50#7 1#8 false) = some 0x605001#24 ∧
      upcoming (engine .assertedLow .assertedLow 0 false [false]) 0 = .low := by decide
theorem witness_ReadTransaction_most :
    Ready ({ engine .released .released 0 false [false] with
        hostIn := hostProgram (0x6150FF#24 :: List.replicate (255#8).toNat 0x700000#24) } : State) ∧
      (255#8 : Byte) ≠ 0 ∧ encodeCommand (.requestFrom 0x50#7 255#8 true) = some 0x6150FF#24 ∧
      upcoming (engine .released .released 0 false [false]) 0 = .low := by decide
theorem witness_ReadTransaction :
    Ready ({ engine .released .released 0 false [false] with
        hostIn := hostProgram (0x615003#24 :: List.replicate (3#8).toNat 0x700000#24) } : State) ∧
      (3#8 : Byte) ≠ 0 ∧ encodeCommand (.requestFrom 0x50#7 3#8 true) = some 0x615003#24 ∧
      upcoming (engine .released .released 0 false [false]) 0 = .low := by decide
theorem witness_WriteTransaction_empty :
    Ready ({ engine .assertedLow .assertedLow 0 false [] with
        hostIn := hostProgram [0x306800#24, 0x500000#24] } : State) ∧
      (Instr.beginTx 0x68#7 :: ([] : List Byte).map Instr.write ++ [Instr.endTx false]).map
          encodeCommand =
        [0x306800#24, 0x500000#24].map some := by decide
theorem witness_WriteTransaction :
    Ready ({ ready with
        hostIn := hostProgram [0x306800#24, 0x40000E#24, 0x40001C#24, 0x510000#24] } : State) ∧
      (Instr.beginTx 0x68#7 :: [0x0E#8, 0x1C#8].map Instr.write ++ [Instr.endTx true]).map
          encodeCommand =
        [0x306800#24, 0x40000E#24, 0x40001C#24, 0x510000#24].map some := by decide
theorem witness_LineOpSequence :
    (engine .released .released 1 true [true]).pendingByteCount =
        (engine .assertedLow .assertedLow 1 true []).pendingByteCount ∧
      (engine .released .released 1 true [true]).stopOnCompletion =
        (engine .assertedLow .assertedLow 1 true []).stopOnCompletion := by decide
theorem witness_TransactionStateHidden : Instr.requestFrom 0x50#7 3#8 true ≠ .read := by decide
theorem witness_IdleInvariant :
    after (exec .read (engine .assertedLow .released 2 false [])) (fun t =>
      t.pendingByteCount != 0) = true := by decide
theorem witness_CommandFrame :
    after (exec (.requestFrom 0x50#7 3#8 true) ready) (fun t =>
      t.pendingByteCount != ready.pendingByteCount &&
        t.stopOnCompletion != ready.stopOnCompletion) = true := by decide
theorem witness_BindingIrrelevant :
    after (step ready) (fun t => t == ready) = true ∧
      after (step { ready with lopIn := some 0b111#3 }) (fun _ => true) = false := by decide
theorem witness_OpenDrainKept :
    OpenDrain ready ∧ after (step (presenting 0x100000#24 ready)) (fun t => t.gpio != []) = true := by
  decide
theorem witness_LinesArePinsKept :
    LinesArePins ({ ready with
        scl := .assertedLow, gpio := [.driveLow ⟨7⟩, .delay 5] } : State) ∧
      after (step (presenting 0x100000#24 ready)) (fun t => t.gpio != []) = true := by
  refine ⟨⟨fun d h => ?_, fun d h => ?_⟩, by decide⟩
  · have hd : some PinDir.output = some d := h
    cases hd
    rfl
  · have hd : (none : Option PinDir) = some d := h
    cases hd

end Sys2Proof.Tests
end

section
/-! PROOFS. The scope of the model (00_scope.md): one pin for both lines is refused (R11), the
configuration is fixed (R9), and its binding has no effect (R10). -/

namespace Sys2Proof

open Machine

/-! One pin for both lines. -/

theorem Cfg.pinsDistinct_eq_false {c : Cfg} (h : c.dataPin = c.clockPin) :
    c.pinsDistinct = false := by
  simp [Cfg.pinsDistinct, h]

/-- Settles O16: the pins are compared before anything is fetched. -/
theorem samePinsRefused : Obligations.SamePinsRefused := by
  intro s h
  simp [step, fetch, Cfg.pinsDistinct_eq_false h]

/-! The configuration is fixed. -/

/-- No operation writes the configuration. -/
theorem keptByOps_cfg (c : Cfg) : KeptByOps fun s => s.cfg = c where
  lineOp op s h := by
    obtain ⟨-, -, -, -, -, -, -, hcfg, -, -⟩ := lineOp_frame op s
    exact hcfg.trans h
  respond _ _ _ h := h
  storeTransaction _ _ _ h := h
  decrementPending _ h := h

/-- Settles O56: neither the operations nor acceptance, reset and the taking of an input write the
configuration. -/
theorem configNeverChanges : Obligations.ConfigNeverChanges := fun s _ hs =>
  (keptByOps_cfg s.cfg).step (fun _ _ h => h) (fun _ h => h) (fun _ _ h => h) (fun _ h => h) rfl hs

/-! The binding has no effect: every operation, every instruction and the fetch commute with
`rebind`, so `step` does. -/

/-- An outcome with the binding `b` in the state it hands out, a next state or a refusal's. -/
def rebindOutcome (b : Binding) :
    Host.Outcome State Fault Refusal → Host.Outcome State Fault Refusal
  | .next t => .next (rebind b t)
  | .fault r => .fault r
  | .refused r => .refused (r.onState (rebind b))

/-- What a step finds, with the binding `b` in its state. -/
def rebindFetched (b : Binding) : Fetched → Fetched
  | .run i t => .run i (rebind b t)
  | .done o => .done (rebindOutcome b o)

section rebind

variable (b : Binding) (s : State)

@[simp] theorem rebind_pendingByteCount : (rebind b s).pendingByteCount = s.pendingByteCount := rfl
@[simp] theorem rebind_stopOnCompletion : (rebind b s).stopOnCompletion = s.stopOnCompletion := rfl
@[simp] theorem rebind_busy : (rebind b s).busy = s.busy := rfl
@[simp] theorem rebind_cmd : (rebind b s).cmd = s.cmd := rfl
@[simp] theorem rebind_sp : (rebind b s).sp = s.sp := rfl
@[simp] theorem rebind_rx : (rebind b s).rx = s.rx := rfl
@[simp] theorem rebind_hostIn : (rebind b s).hostIn = s.hostIn := rfl
@[simp] theorem rebind_lopIn : (rebind b s).lopIn = s.lopIn := rfl
@[simp] theorem rebind_pinsDistinct : (rebind b s).cfg.pinsDistinct = s.cfg.pinsDistinct := rfl

@[simp] theorem respond_rebind (v : Byte) (e : Bool) :
    respond v e (rebind b s) = rebind b (respond v e s) := rfl

@[simp] theorem storeTransaction_rebind (q : Byte) (p : Bool) :
    storeTransaction q p (rebind b s) = rebind b (storeTransaction q p s) := rfl

@[simp] theorem decrementPending_rebind :
    decrementPending (rebind b s) = rebind b (decrementPending s) := rfl

@[simp] theorem accept_rebind (w : CmdWord) : accept w (rebind b s) = rebind b (accept w s) := rfl

@[simp] theorem resetEngine_rebind : resetEngine (rebind b s) = rebind b (resetEngine s) := rfl

@[simp] theorem lineOp_rebind (op : LineOp) : lineOp op (rebind b s) = rebind b (lineOp op s) := by
  cases op <;> rfl

@[simp] theorem perform_rebind (ops : List LineOp) :
    perform ops (rebind b s) = rebind b (perform ops s) := by
  induction ops generalizing s with
  | nil => rfl
  | cons op ops ih => simp [perform, ih]

/-! A whole instruction. -/

theorem execRead_rebind : execRead (rebind b s) = rebindOutcome b (execRead s) := by
  by_cases h : s.pendingByteCount = 0x00#8 <;> simp [execRead, rebindOutcome, h]

theorem exec_rebind (i : Instr) : exec i (rebind b s) = rebindOutcome b (exec i s) := by
  cases i with
  | cmdBegin => simp [exec, execBegin, rebindOutcome]
  | cmdEnd => simp [exec, execEnd, rebindOutcome]
  | beginTx addr => simp [exec, execBeginTx, rebindOutcome]
  | write byte => simp [exec, execWrite, rebindOutcome]
  | endTx stop => simp [exec, execEndTx, rebindOutcome]
  | requestFrom addr qty stop => simp [exec, execRequestFrom, rebindOutcome]
  | read => exact execRead_rebind b s
  | releaseClock | assertClockLow | releaseData | assertDataLow | readData => rfl

/-! An instruction by its moves. -/

@[simp] theorem expansion_rebind (i : Instr) : expansion i (rebind b s) = expansion i s := by
  cases i <;> rfl

@[simp] theorem finalResponse_rebind (i : Instr) :
    finalResponse i (rebind b s) = finalResponse i s := by
  cases i <;> rfl

@[simp] theorem beforeOp_rebind (i : Instr) : beforeOp i (rebind b s) = rebind b (beforeOp i s) := by
  cases i with
  | requestFrom addr qty stop => by_cases h : s.sp = 0 <;> simp [beforeOp, h]
  | read => by_cases h : s.sp = 25 <;> simp [beforeOp, h]
  | cmdBegin | cmdEnd | beginTx _ | write _ | endTx _ | releaseClock | assertClockLow | releaseData
  | assertDataLow | readData => rfl

theorem moveOf_rebind (i : Instr) : moveOf i (rebind b s) = rebind b (moveOf i s) := by
  cases h : (expansion i (beforeOp i s))[(beforeOp i s).sp]? <;> simp [moveOf, h]

@[simp] theorem advance_rebind : advance (rebind b s) = rebind b (advance s) := by
  cases h : decodeCommand s.cmd <;> simp [advance, h, moveOf_rebind]

@[simp] theorem moves_rebind (n : Nat) : moves n (rebind b s) = rebind b (moves n s) := by
  induction n generalizing s with
  | zero => rfl
  | succ n ih => cases h : s.busy <;> simp [moves, h, ih]

/-! The fetch. -/

@[simp] theorem wordOutcome_rebind (w : CmdWord) :
    wordOutcome w (rebind b s) = rebindOutcome b (wordOutcome w s) := by
  cases h : decodeCommand w <;> simp [wordOutcome, h, rebindOutcome, Refusal.onState]

theorem fetchCommand_rebind (w : CmdWord) :
    fetchCommand w (rebind b s) = rebindFetched b (fetchCommand w s) := by
  cases h : decodeCommand w <;> simp [fetchCommand, h, rebindFetched]

theorem fetchMove_rebind : fetchMove (rebind b s) = rebindFetched b (fetchMove s) := by
  simp [fetchMove, rebindFetched]

theorem fetchThenReset_rebind (w : CmdWord) (n : Nat) :
    fetchThenReset w n (rebind b s) = rebindFetched b (fetchThenReset w n s) := by
  simp [fetchThenReset, rebindFetched]

theorem fetchLop_rebind (c : LopCode) :
    fetchLop c (rebind b s) = rebindFetched b (fetchLop c s) := by
  cases h : decodeLop c <;> simp [fetchLop, h, rebindFetched, rebindOutcome, Refusal.onState]

theorem fetchHost_rebind : fetchHost (rebind b s) = rebindFetched b (fetchHost s) := by
  unfold fetchHost
  rw [rebind_hostIn, rebind_busy]
  cases s.hostIn with
  | nil =>
    cases s.busy with
    | true => exact fetchMove_rebind b s
    | false => rfl
  | cons x rest =>
    cases x with
    | reset => rfl
    | command w =>
      cases s.busy with
      | true => exact fetchMove_rebind b s
      | false => exact fetchCommand_rebind b { s with hostIn := rest } w
    | commandThenReset w n =>
      cases s.busy with
      | true => exact fetchMove_rebind b s
      | false => exact fetchThenReset_rebind b { s with hostIn := rest } w n

theorem fetch_rebind : fetch (rebind b s) = rebindFetched b (fetch s) := by
  unfold fetch
  rw [rebind_pinsDistinct, rebind_lopIn]
  cases s.cfg.pinsDistinct with
  | false => rfl
  | true =>
    cases s.lopIn with
    | none => exact fetchHost_rebind b s
    | some c => exact fetchLop_rebind b { s with lopIn := none } c

theorem step_rebind : step (rebind b s) = rebindOutcome b (step s) := by
  unfold step
  rw [fetch_rebind]
  cases fetch s with
  | run i t => exact exec_rebind b t i
  | done o => rfl

end rebind

/-- Settles O55: a step commutes with a change of the binding, whatever its outcome. -/
theorem bindingIrrelevant : Obligations.BindingIrrelevant := by
  intro s b
  refine ⟨fun t h => ?_, fun r h => ?_⟩ <;> rw [step_rebind, h] <;> rfl

end Sys2Proof
end

section
/-! PROOFS. The invariants of the engine (10_state.md, sections 3 and 7): open drain (R26) and line
states that are pin directions (R25), at reset and over every step; the values of R36 and the
wired-AND of R27. -/

namespace Sys2Proof

open Machine

/-! Open drain. -/

/-- The requests of one line op: its pin is made an input or driven low, never driven HIGH. -/
theorem openDrain_lineOp (op : LineOp) {s : State} (h : OpenDrain s) : OpenDrain (lineOp op s) := by
  intro c hc
  obtain ⟨calls, hgpio, hcalls⟩ :
      ∃ calls, (lineOp op s).gpio = s.gpio ++ calls ∧ ∀ c ∈ calls, c.openDrain = true := by
    cases op <;> exact ⟨_, rfl, by simp [GpioCall.openDrain]⟩
  rw [hgpio, List.mem_append] at hc
  exact hc.elim (h c) (hcalls c)

/-- Only the line ops make requests. -/
theorem keptByOps_openDrain : KeptByOps OpenDrain where
  lineOp op _ := openDrain_lineOp op
  respond _ _ _ h := h
  storeTransaction _ _ _ h := h
  decrementPending _ h := h

/-- Settles O57: line ops keep the rule, and nothing else in a step makes a request. -/
theorem openDrainKept : Obligations.OpenDrainKept := fun _ _ h hs =>
  keptByOps_openDrain.step (fun _ _ h => h) (fun _ h => h) (fun _ _ h => h) (fun _ h => h) h hs

/-- Settles O58: no request has been made at reset. -/
theorem openDrainAtReset : Obligations.OpenDrainAtReset := by
  intro c hc
  simp [State.reset, State.construct] at hc

/-! Line states are pin directions. -/

/-- The later requests say a pin's direction, and the earlier ones where they do not. -/
theorem lastDir_append (pin : PinId) (xs ys : List GpioCall) :
    lastDir pin (xs ++ ys) = (lastDir pin ys).or (lastDir pin xs) := by
  induction xs with
  | nil => simp [lastDir]
  | cons x xs ih => cases x <;> simp [lastDir, ih, Option.or_assoc]

/-- Each setter gives its own pin the direction its line state is; the other pin keeps its last
direction, because the two are distinct. -/
theorem linesArePins_lineOp (op : LineOp) {s : State} (hpins : s.cfg.dataPin ≠ s.cfg.clockPin)
    (h : LinesArePins s) : LinesArePins (lineOp op s) := by
  obtain ⟨hclock, hdata⟩ := h
  cases op with
  | releaseClock =>
    exact ⟨by simp [lineOp, lastDir_append, lastDir, dirState],
      by simpa [lineOp, lastDir_append, lastDir, hpins.symm] using hdata⟩
  | assertClockLow =>
    exact ⟨by simp [lineOp, lastDir_append, lastDir, dirState],
      by simpa [lineOp, lastDir_append, lastDir, hpins.symm] using hdata⟩
  | releaseData =>
    exact ⟨by simpa [lineOp, lastDir_append, lastDir, hpins] using hclock,
      by simp [lineOp, lastDir_append, lastDir, dirState]⟩
  | assertDataLow =>
    exact ⟨by simpa [lineOp, lastDir_append, lastDir, hpins] using hclock,
      by simp [lineOp, lastDir_append, lastDir, dirState]⟩
  | readData =>
    exact ⟨by simpa [lineOp, lastDir_append, lastDir] using hclock,
      by simpa [lineOp, lastDir_append, lastDir] using hdata⟩

/-- The strengthened invariant: distinct pins, which no operation changes, and line states that are
their directions. -/
theorem keptByOps_linesArePins :
    KeptByOps fun s => s.cfg.dataPin ≠ s.cfg.clockPin ∧ LinesArePins s where
  lineOp op s h := by
    obtain ⟨-, -, -, -, -, -, -, hcfg, -, -⟩ := lineOp_frame op s
    exact ⟨hcfg ▸ h.1, linesArePins_lineOp op h.1 h.2⟩
  respond _ _ _ h := h
  storeTransaction _ _ _ h := h
  decrementPending _ h := h

/-- Settles O59: a step with a next state has distinct pins, and so keeps the strengthened
invariant. -/
theorem linesArePinsKept : Obligations.LinesArePinsKept := by
  intro s t h hs
  have hpins : s.cfg.dataPin ≠ s.cfg.clockPin := by
    simpa [Cfg.pinsDistinct] using (step_cases hs).1
  exact (keptByOps_linesArePins.step (fun _ _ h => h) (fun _ h => h) (fun _ _ h => h)
    (fun _ h => h) ⟨hpins, h⟩ hs).2

/-- Settles O60: no direction has been given at reset. -/
theorem linesArePinsAtReset : Obligations.LinesArePinsAtReset :=
  ⟨fun _ h => (nomatch h), fun _ h => (nomatch h)⟩

/-! Reset values and the level of a line. -/

/-- Settles O17: construction writes each field of R36 and no observation, and `State.reset` is a
construction with the free line states. -/
theorem resetValues : Obligations.ResetValues :=
  ⟨fun _ _ _ => ⟨_, rfl, rfl, rfl, rfl, rfl, rfl, rfl, rfl, rfl, rfl, rfl, rfl, rfl⟩,
    Config.resetCfg, Config.resetScl, Config.resetSda, rfl⟩

/-- Settles O23: the level is LOW on the branch where the engine or a device asserts the line, and
HIGH on the other. -/
theorem wiredAnd : Obligations.WiredAnd := by
  intro st dev
  unfold lineLevel
  split
  · exact iff_of_true rfl ‹_›
  · exact iff_of_false Level.noConfusion ‹_›

end Sys2Proof
end

section
/-! PROOFS. The host commands as wholes: each performs a list of line ops that its operands, the
count and the stop bit fix, and responds (`exec_eq_performed`, `exec_eq_leaves`). From this closed
form: the lines a command leaves (R39), its frame (R22, R23, R112), its line ops (R29, R30) and the
hidden Transaction State (R24). -/

namespace Sys2Proof

open Machine

/-! Line ops and the Transaction State do not meet. -/

@[simp] theorem lineOp_storeTransaction (q : Byte) (p : Bool) (op : LineOp) (s : State) :
    lineOp op (storeTransaction q p s) = storeTransaction q p (lineOp op s) := by
  cases op <;> rfl

@[simp] theorem perform_storeTransaction (q : Byte) (p : Bool) (ops : List LineOp) (s : State) :
    perform ops (storeTransaction q p s) = storeTransaction q p (perform ops s) := by
  induction ops generalizing s with
  | nil => rfl
  | cons op ops ih => simp [perform, ih]

@[simp] theorem respond_storeTransaction (q v : Byte) (p e : Bool) (s : State) :
    respond v e (storeTransaction q p s) = storeTransaction q p (respond v e s) := rfl

@[simp] theorem storeTransaction_storeTransaction (q q' : Byte) (p p' : Bool) (s : State) :
    storeTransaction q p (storeTransaction q' p' s) = storeTransaction q p s := rfl

/-- Line ops without a sample leave the caller's local value. -/
theorem perform_rx_of_no_samples {ops : List LineOp} (h : samplesIn ops = 0) (s : State) :
    (perform ops s).rx = s.rx := by
  induction ops generalizing s with
  | nil => rfl
  | cons op ops ih =>
    cases op with
    | readData => simp [samplesIn] at h
    | releaseClock | assertClockLow | releaseData | assertDataLow => exact ih h _

@[simp] theorem samplesIn_endTxOps (stop : Bool) : samplesIn (endTxOps stop) = 0 := by
  cases stop <;> rfl

@[simp] theorem opsValid_endTxOps (l : Lines) (stop : Bool) :
    opsValid l (endTxOps stop) = true := by
  cases stop <;> rfl

theorem length_endTxOps_le (stop : Bool) : (endTxOps stop).length ≤ 3 := by
  cases stop <;> decide

theorem readTailOps_of_ne {pending : Byte} (h : pending ≠ 0x00#8) (stop : Bool) :
    readTailOps pending stop = sendAckOps :=
  if_pos h

@[simp] theorem samplesIn_readTailOps (pending : Byte) (stop : Bool) :
    samplesIn (readTailOps pending stop) = 0 := by
  unfold readTailOps
  split <;> simp

@[simp] theorem opsValid_readTailOps (l : Lines) (pending : Byte) (stop : Bool) :
    opsValid l (readTailOps pending stop) = true := by
  unfold readTailOps
  split <;> simp

theorem length_readTailOps_le (pending : Byte) (stop : Bool) :
    (readTailOps pending stop).length ≤ 6 := by
  have := length_endTxOps_le stop
  unfold readTailOps
  split
  · simp
  · rw [List.length_append, sendNackOps_length]
    omega

/-! What a command does, by its operands, the count and the stop bit. -/

/-- The line ops of a command; a line op is no command and has none. -/
def commandOps (i : Instr) (pending : Byte) (stop : Bool) : List LineOp :=
  match i with
  | .cmdBegin | .cmdEnd => releaseBothOps
  | .beginTx addr => addressOps addr false
  | .write byte => writeByteOps byte
  | .endTx p => endTxOps p
  | .requestFrom addr _ _ => addressOps addr true
  | .read =>
    if pending = 0x00#8 then [] else readByteOps ++ readTailOps (pending - 1#8) stop
  | .releaseClock | .assertClockLow | .releaseData | .assertDataLow | .readData => []

theorem commandOps_read_of_nothing_pending {pending : Byte} {stop : Bool} (h : pending = 0x00#8) :
    commandOps .read pending stop = [] :=
  if_pos h

theorem commandOps_read_of_pending {pending : Byte} {stop : Bool} (h : pending ≠ 0x00#8) :
    commandOps .read pending stop = readByteOps ++ readTailOps (pending - 1#8) stop :=
  if_neg h

/-- The count a command leaves, by the count it finds (R22). -/
def countAfter (i : Instr) (pending : Byte) : Byte :=
  match i with
  | .requestFrom _ q _ => q
  | .read => if pending = 0x00#8 then pending else pending - 1#8
  | .cmdBegin | .cmdEnd | .beginTx _ | .write _ | .endTx _ => pending
  | .releaseClock | .assertClockLow | .releaseData | .assertDataLow | .readData => pending

theorem countAfter_read_of_pending {pending : Byte} (h : pending ≠ 0x00#8) :
    countAfter .read pending = pending - 1#8 :=
  if_neg h

/-- The stop bit a command leaves, by the one it finds (R23). -/
def stopAfter (i : Instr) (stop : Bool) : Bool :=
  match i with
  | .requestFrom _ _ p => p
  | .cmdBegin | .cmdEnd | .beginTx _ | .write _ | .endTx _ | .read => stop
  | .releaseClock | .assertClockLow | .releaseData | .assertDataLow | .readData => stop

/-- The response of a command, by the count it finds and the `rx` its line ops leave (R66). -/
def commandResponse (i : Instr) (pending rx : Byte) : Byte :=
  match i with
  | .beginTx _ | .write _ => ackResponse rx
  | .requestFrom _ q _ => requestResponse q rx
  | .read => if pending = 0x00#8 then Config.sentinel else rx
  | .cmdBegin | .cmdEnd | .endTx _ => 0x00#8
  | .releaseClock | .assertClockLow | .releaseData | .assertDataLow | .readData => 0x00#8

/-- The state after the line ops and the assignments of a command, before its response. -/
def performed (i : Instr) (s : State) : State :=
  perform (commandOps i s.pendingByteCount s.stopOnCompletion)
    (storeTransaction (countAfter i s.pendingByteCount) (stopAfter i s.stopOnCompletion) s)

/-- The state a command leaves when its response is `v`. -/
def leaves (i : Instr) (v : Byte) (s : State) : State :=
  let ops := commandOps i s.pendingByteCount s.stopOnCompletion
  commandResult ops ((linesOf s).afterOps ops).scl ((linesOf s).afterOps ops).sda
    (countAfter i s.pendingByteCount) (stopAfter i s.stopOnCompletion) v s

theorem decrementPending_of_ne {s : State} (h : s.pendingByteCount ≠ 0x00#8) :
    decrementPending s =
      storeTransaction (s.pendingByteCount - 1#8) s.stopOnCompletion s := by
  simp [decrementPending, storeTransaction, h]

theorem performed_read_of_nothing_pending {s : State} (h : s.pendingByteCount = 0x00#8) :
    performed .read s = s := by
  have hcount : countAfter .read s.pendingByteCount = s.pendingByteCount := if_pos h
  rw [performed, commandOps_read_of_nothing_pending h, hcount]
  rfl

/-- `READ` with bytes pending: the decrement between its byte and its tail is as good as one before
both, and the tail takes no sample. -/
theorem execRead_of_pending {s : State} (h : s.pendingByteCount ≠ 0x00#8) :
    execRead s = .next (complete (performed .read s).rx (performed .read s)) := by
  obtain ⟨hcount, hstop, -⟩ := perform_frame readByteOps s
  have hd : decrementPending (perform readByteOps s) =
      storeTransaction (s.pendingByteCount - 1#8) s.stopOnCompletion (perform readByteOps s) := by
    rw [decrementPending_of_ne (by rwa [hcount]), hcount, hstop]
  simp [execRead, performed, commandOps, countAfter, stopAfter, h, hd, perform_append,
    perform_rx_of_no_samples]

/-- A command is its line ops and its response. -/
theorem exec_eq_performed {i : Instr} (hi : i.hostIssuable = true) (s : State) :
    exec i s = .next (complete
      (commandResponse i s.pendingByteCount (performed i s).rx) (performed i s)) := by
  cases i with
  | read =>
    by_cases h : s.pendingByteCount = 0x00#8
    · simp [exec, execRead, commandResponse, h, performed_read_of_nothing_pending h]
    · simpa [exec, commandResponse, h] using execRead_of_pending h
  | cmdBegin | cmdEnd | beginTx _ | write _ | endTx _ | requestFrom _ _ _ => rfl
  | releaseClock | assertClockLow | releaseData | assertDataLow | readData => cases hi

/-- No command samples while the engine asserts SDA (R109). -/
theorem opsValid_commandOps (l : Lines) (i : Instr) (pending : Byte) (stop : Bool) :
    opsValid l (commandOps i pending stop) = true := by
  cases i with
  | cmdBegin | cmdEnd | releaseClock | assertClockLow | releaseData | assertDataLow | readData =>
    rfl
  | beginTx addr => simp [commandOps, addressOps]
  | write byte => simp [commandOps]
  | endTx p => exact opsValid_endTxOps l p
  | requestFrom addr q p => simp [commandOps, addressOps]
  | read =>
    by_cases h : pending = 0x00#8
    · rw [commandOps_read_of_nothing_pending h]
      rfl
    · simp [commandOps_read_of_pending h]

/-- The closed form of a command: the fields of the state it leaves. -/
theorem exec_eq_leaves {i : Instr} (hi : i.hostIssuable = true) (s : State) :
    exec i s = .next
      (leaves i (commandResponse i s.pendingByteCount (performed i s).rx) s) := by
  rw [exec_eq_performed hi]
  unfold performed
  rw [complete_perform _ _ _ (opsValid_commandOps _ _ _ _)]
  rfl

theorem length_addressOps (addr : Addr) (rw : Bool) : (addressOps addr rw).length = 32 := rfl

/-- No command performs more than 32 line ops (R30). -/
theorem length_commandOps_le (i : Instr) (pending : Byte) (stop : Bool) :
    (commandOps i pending stop).length ≤ 32 := by
  cases i with
  | cmdBegin | cmdEnd | beginTx _ | write _ | requestFrom _ _ _ | releaseClock | assertClockLow
  | releaseData | assertDataLow | readData => simp [commandOps, length_addressOps]
  | endTx p => exact (length_endTxOps_le p).trans (by decide)
  | read =>
    by_cases h : pending = 0x00#8
    · simp [commandOps_read_of_nothing_pending h]
    · have := length_readTailOps_le (pending - 1#8) stop
      rw [commandOps_read_of_pending h, List.length_append, readByteOps_length]
      omega

/-! What a command leaves. -/

/-- The events a command adds: those of its line ops, and its response. -/
def addedEvents (i : Instr) (v : Byte) (s : State) : List Event :=
  eventsFrom s (commandOps i s.pendingByteCount s.stopOnCompletion) ++ [.response v false]

theorem leaves_trace (i : Instr) (v : Byte) (s : State) :
    (leaves i v s).trace = s.trace ++ addedEvents i v s :=
  List.append_assoc ..

theorem opsOf_addedEvents (i : Instr) (v : Byte) (s : State) :
    opsOf (addedEvents i v s) = commandOps i s.pendingByteCount s.stopOnCompletion := by
  simp [addedEvents, eventsFrom, opsOf_append, opsOf_eventsOf, opsOf]

theorem sampleCount_addedEvents (i : Instr) (v : Byte) (s : State) :
    sampleCount (addedEvents i v s) =
      samplesIn (commandOps i s.pendingByteCount s.stopOnCompletion) := by
  simp [addedEvents, eventsFrom, sampleCount_append, sampleCount_eventsOf, sampleCount]

/-- Settles O52: the line ops are `commandOps`, which reads the command, the count and the stop bit
only. -/
theorem lineOpSequence : Obligations.LineOpSequence := by
  intro i s s' hi hcount hstop
  refine ⟨_, _, _, _, exec_eq_leaves hi s, exec_eq_leaves hi s', leaves_trace .., leaves_trace ..,
    ?_, ?_, ?_⟩
  · rw [opsOf_addedEvents, opsOf_addedEvents, hcount, hstop]
  · rw [opsOf_addedEvents]
    exact length_commandOps_le ..
  · rw [opsOf_addedEvents]
    rfl

/-- The commands that change the count (R22). -/
theorem countAfter_ne {i : Instr} {pending : Byte} (h : countAfter i pending ≠ pending) :
    (∃ a p, i = .requestFrom a (countAfter i pending) p) ∨
      (i = .read ∧ countAfter i pending = pending - 1 ∧ pending ≠ 0) := by
  cases i with
  | requestFrom a q p => exact .inl ⟨a, p, rfl⟩
  | read =>
    by_cases h0 : pending = 0x00#8
    · exact absurd (by simp [countAfter, h0]) h
    · exact .inr ⟨rfl, by simp [countAfter, h0], h0⟩
  | cmdBegin | cmdEnd | beginTx _ | write _ | endTx _ | releaseClock | assertClockLow | releaseData
  | assertDataLow | readData => exact absurd rfl h

/-- The one command that changes the stop bit (R23). -/
theorem stopAfter_ne {i : Instr} {stop : Bool} (h : stopAfter i stop ≠ stop) :
    ∃ a q, i = .requestFrom a q (stopAfter i stop) := by
  cases i with
  | requestFrom a q p => exact ⟨a, q, rfl⟩
  | cmdBegin | cmdEnd | beginTx _ | write _ | endTx _ | read | releaseClock | assertClockLow
  | releaseData | assertDataLow | readData => exact absurd rfl h

/-- Settles O49: the fields of the closed form, with the count and the stop bit it leaves. -/
theorem commandFrame : Obligations.CommandFrame := by
  intro i s t hi ht
  rw [exec_eq_leaves hi] at ht
  cases ht
  refine ⟨rfl, rfl, rfl, rfl, countAfter_ne, stopAfter_ne, _, leaves_trace .., ?_, ?_⟩ <;>
    rw [sampleCount_addedEvents] <;> rfl

/-- Settles O53: the Transaction State passes through the line ops of every command but `READ`, or
is overwritten by `REQUEST_FROM`, so the two next states differ in it only. -/
theorem transactionStateHidden : Obligations.TransactionStateHidden := by
  intro i s n p hi
  obtain ⟨t, m, r, ht, ht'⟩ : ∃ t m r, exec i s = .next t ∧
      exec i (storeTransaction n p s) = .next (storeTransaction m r t) := by
    cases i with
    | read => exact absurd rfl hi
    | requestFrom a q stop => exact ⟨_, _, _, rfl, rfl⟩
    | cmdBegin | cmdEnd | releaseClock | assertClockLow | releaseData | assertDataLow | readData =>
      exact ⟨_, n, p, rfl, rfl⟩
    | beginTx addr => exact ⟨_, n, p, rfl, by simp [exec, execBeginTx]⟩
    | write byte => exact ⟨_, n, p, rfl, by simp [exec, execWrite]⟩
    | endTx stop => exact ⟨_, n, p, rfl, by simp [exec, execEndTx]⟩
  exact ⟨t, _, ht, ht', rfl, rfl, rfl, rfl⟩

/-! The lines a command leaves. -/

section lines

variable {i : Instr} {s t : State}

theorem linesOf_exec (hi : i.hostIssuable = true) (ht : exec i s = .next t) :
    linesOf t = (linesOf s).afterOps (commandOps i s.pendingByteCount s.stopOnCompletion) := by
  rw [exec_eq_leaves hi] at ht
  cases ht
  rfl

theorem pendingByteCount_exec (hi : i.hostIssuable = true) (ht : exec i s = .next t) :
    t.pendingByteCount = countAfter i s.pendingByteCount := by
  rw [exec_eq_leaves hi] at ht
  cases ht
  rfl

/-- A command without line ops leaves the lines and makes no request. -/
theorem exec_of_no_ops (hi : i.hostIssuable = true) (ht : exec i s = .next t)
    (hops : commandOps i s.pendingByteCount s.stopOnCompletion = []) :
    t.scl = s.scl ∧ t.sda = s.sda ∧ t.gpio = s.gpio := by
  rw [exec_eq_leaves hi] at ht
  cases ht
  simp [leaves, commandResult, hops, Lines.afterOps, linesOf, gpioOf]

/-- The commands that release both lines (R39). -/
theorem exec_releases_lines (ht : exec i s = .next t)
    (h : i = .cmdBegin ∨ i = .cmdEnd ∨ i = .endTx true ∨
      (i = .read ∧ s.pendingByteCount = 1 ∧ s.stopOnCompletion = true)) :
    t.scl = .released ∧ t.sda = .released := by
  suffices linesOf t = ⟨.released, .released⟩ from
    ⟨congrArg Lines.scl this, congrArg Lines.sda this⟩
  obtain rfl | rfl | rfl | ⟨rfl, hcount, hstop⟩ := h <;> rw [linesOf_exec rfl ht]
  · exact releaseBothOps_after _
  · exact releaseBothOps_after _
  · exact stopOps_after _
  · simp [commandOps, readTailOps, endTxOps, hcount, hstop]

/-- The commands that park the bus with SCL asserted (R39). -/
theorem exec_asserts_clock (ht : exec i s = .next t)
    (h : (∃ a, i = .beginTx a) ∨ (∃ b, i = .write b) ∨ (∃ a q p, i = .requestFrom a q p) ∨
      (i = .read ∧ s.pendingByteCount ≠ 0 ∧ t.pendingByteCount ≠ 0) ∨
      (i = .read ∧ s.pendingByteCount = 1 ∧ s.stopOnCompletion = false)) :
    t.scl = .assertedLow := by
  suffices (linesOf t).scl = .assertedLow from this
  obtain ⟨a, rfl⟩ | ⟨b, rfl⟩ | ⟨a, q, p, rfl⟩ | ⟨rfl, hcount, hleft⟩ | ⟨rfl, hcount, hstop⟩ := h <;>
    rw [linesOf_exec rfl ht]
  · simp [commandOps, addressOps]
  · simp [commandOps]
  · simp [commandOps, addressOps]
  · rw [pendingByteCount_exec rfl ht, countAfter_read_of_pending hcount] at hleft
    simp [commandOps_read_of_pending hcount, readTailOps_of_ne hleft]
  · simp [commandOps, readTailOps, endTxOps, hcount, hstop]

end lines

/-- An illegal word is accepted and completes at once, and is refused with that state (R133). -/
theorem step_illegalWord {s : State} {w : CmdWord} {rest : List HostInput} (hs : Ready s)
    (hhost : s.hostIn = .command w :: rest) (hw : decodeCommand w = none) :
    step s = .refused (.illegalWord w (completeIllegal (accept w { s with hostIn := rest }))) := by
  obtain ⟨⟨hpins, hlop⟩, hbusy⟩ := hs
  simp [step, fetch, hpins, hlop, fetchHost, hhost, hbusy, fetchCommand, hw, wordOutcome_illegal hw]

/-- Settles O46: the three groups of R39, from the lines after the command's line ops; an illegal
word has none. -/
theorem idleInvariant : Obligations.IdleInvariant := by
  refine ⟨fun s t i ht => ⟨exec_releases_lines ht, exec_asserts_clock ht, ?_⟩, ?_⟩
  · rintro (rfl | ⟨rfl, hcount⟩)
    · exact exec_of_no_ops rfl ht rfl
    · exact exec_of_no_ops rfl ht (commandOps_read_of_nothing_pending hcount)
  · intro s t w rest hs hhost hw ht
    rw [step_illegalWord hs hhost hw] at ht
    cases ht
    exact ⟨rfl, rfl, rfl⟩

end Sys2Proof
end

section
/-! PROOFS. The word of an instruction decodes to that instruction: the opcode of a word selects at
most one row of the map (R57, R59), and the operands are read back from their fields (R55, R61). -/

namespace Sys2Proof

/-- `OP = cmd[23:20]` (R55). -/
def opField (w : CmdWord) : BitVec 4 := w.extractLsb' 20 4

/-! The fields of a packed word. -/

section packCommand

variable (op : BitVec 4) (s : Bool) (a : Addr) (d : Byte)

@[simp] theorem opField_packCommand : opField (packCommand op s a d) = op := by
  apply BitVec.eq_of_getLsbD_eq
  intro i hi
  rw [opField, BitVec.getLsbD_extractLsb', getLsbD_packCommand, if_neg (by omega),
    if_neg (by omega), if_neg (by omega), if_neg (by omega), if_neg (by omega),
    Nat.add_sub_cancel_left]
  simp [hi]

@[simp] theorem addrField_packCommand : addrField (packCommand op s a d) = a := by
  apply BitVec.eq_of_getLsbD_eq
  intro i hi
  simp [addrField, getLsbD_packCommand, hi]
  omega

@[simp] theorem dataField_packCommand : dataField (packCommand op s a d) = d := by
  apply BitVec.eq_of_getLsbD_eq
  intro i hi
  simp [dataField, getLsbD_packCommand, hi]

@[simp] theorem stopField_packCommand : stopField (packCommand op s a d) = s := by
  exact getLsbD_packCommand op s a d 16

end packCommand

/-! Rows and opcodes. -/

/-- Every row fixes the whole opcode. -/
theorem opField_of_hits {r : Row} {w : CmdWord} (hr : r ∈ commandRows) (h : r.hits w = true) :
    opField w = opField r.pattern := by
  have hmask : ∀ r ∈ commandRows, opField r.mask = BitVec.allOnes 4 := by decide
  have hw : w &&& r.mask = r.pattern := by simpa [Row.hits] using h
  rw [← hw, opField, opField, BitVec.extractLsb'_and, ← opField, ← opField, hmask r hr,
    BitVec.and_allOnes]

/-- No two rows have the same opcode. -/
theorem row_eq_of_opField : ∀ r ∈ commandRows, ∀ r' ∈ commandRows,
    opField r.pattern = opField r'.pattern → r = r' := by
  decide

/-- Every instruction has its one encoding. -/
theorem rowMatch (i : Instr) : Laws.RowMatch.Statement i := by
  cases i with
  | cmdBegin => exact Laws.RowMatch.cmdBegin
  | cmdEnd => exact Laws.RowMatch.cmdEnd
  | beginTx addr => exact Laws.RowMatch.beginTx addr
  | write byte => exact Laws.RowMatch.write byte
  | endTx stop => exact Laws.RowMatch.endTx stop
  | requestFrom addr qty stop => exact Laws.RowMatch.requestFrom addr qty stop
  | read => exact Laws.RowMatch.read
  | releaseClock => exact Laws.RowMatch.releaseClock
  | assertClockLow => exact Laws.RowMatch.assertClockLow
  | releaseData => exact Laws.RowMatch.releaseData
  | assertDataLow => exact Laws.RowMatch.assertDataLow
  | readData => exact Laws.RowMatch.readData

section encoded

variable {i : Instr} {w : CmdWord} (h : encodeCommand i = some w)

include h

/-- The word of a command matches the row with its opcode and no other. -/
theorem hits_encoded {r : Row} (hr : r ∈ commandRows) :
    r.hits w = (opField w == opField r.pattern) := by
  obtain ⟨-, -, w', hw', r', hr', hhit⟩ | ⟨-, hnone, -⟩ := rowMatch i
  · obtain rfl : w = w' := Option.some.inj (h.symm.trans hw')
    rw [Bool.eq_iff_iff, beq_iff_eq]
    refine ⟨opField_of_hits hr, fun hop => ?_⟩
    rwa [row_eq_of_opField r hr r' hr' (hop.symm.trans (opField_of_hits hr' hhit))]
  · simp [hnone] at h

/-- Decoding the word of a command: by the opcode alone, the operands from their fields. -/
theorem decodeCommand_encoded :
    decodeCommand w =
      if opField w = 0x1#4 then some .cmdBegin
      else if opField w = 0x2#4 then some .cmdEnd
      else if opField w = 0x3#4 then some (.beginTx (addrField w))
      else if opField w = 0x4#4 then some (.write (dataField w))
      else if opField w = 0x5#4 then some (.endTx (stopField w))
      else if opField w = 0x6#4 then
        some (.requestFrom (addrField w) (dataField w) (stopField w))
      else if opField w = 0x7#4 then some .read
      else none := by
  have hits : ∀ r ∈ commandRows, r.hits w = (opField w == opField r.pattern) :=
    fun r hr => hits_encoded h hr
  simp only [commandRows, List.forall_mem_cons] at hits
  obtain ⟨h1, h2, h3, h4, h5, h6, h7, -⟩ := hits
  simp only [decodeCommand, h1, h2, h3, h4, h5, h6, h7, beq_iff_eq]
  rfl

/-- The word of a command decodes to the command. -/
theorem decodeCommand_of_encodeCommand : decodeCommand w = some i := by
  rw [decodeCommand_encoded h]
  cases i with
  | cmdBegin | cmdEnd | beginTx _ | write _ | endTx _ | requestFrom _ _ _ | read =>
    cases h
    simp
  | releaseClock | assertClockLow | releaseData | assertDataLow | readData => cases h

end encoded

end Sys2Proof
end

section
/-! PROOFS. The engine in small steps (R29): what one move does and what it does not look at (R31),
and the moves of a command taken to the end, which are the command (R29, R30). -/

namespace Sys2Proof

open Machine

/-! One move. -/

/-- `s` with the host's requests `xs`. -/
def issuing (xs : List HostInput) (s : State) : State := { s with hostIn := xs }

/-- The assignments before a line op write the Transaction State only, and do not look at the host's
requests. -/
theorem beforeOp_issuing (i : Instr) (s : State) :
    ∃ q p, ∀ xs, beforeOp i (issuing xs s) = storeTransaction q p (issuing xs s) := by
  cases i with
  | requestFrom addr qty stop =>
    by_cases h : s.sp = 0
    · exact ⟨qty, stop, fun _ => if_pos h⟩
    · exact ⟨s.pendingByteCount, s.stopOnCompletion, fun _ => if_neg h⟩
  | read =>
    by_cases h : s.sp = readByteOps.length
    · exact ⟨(decrementPending s).pendingByteCount, s.stopOnCompletion, fun _ => if_pos h⟩
    · exact ⟨s.pendingByteCount, s.stopOnCompletion, fun _ => if_neg h⟩
  | cmdBegin | cmdEnd | beginTx _ | write _ | endTx _ | releaseClock | assertClockLow | releaseData
  | assertDataLow | readData => exact ⟨s.pendingByteCount, s.stopOnCompletion, fun _ => rfl⟩

theorem expansion_issuing (i : Instr) (q : Byte) (p : Bool) (xs : List HostInput) (s : State) :
    expansion i (storeTransaction q p (issuing xs s)) = expansion i (storeTransaction q p s) := by
  cases i <;> rfl

theorem finalResponse_issuing (i : Instr) (q : Byte) (p : Bool) (xs : List HostInput) (s : State) :
    finalResponse i (storeTransaction q p (issuing xs s)) =
      finalResponse i (storeTransaction q p s) := by
  cases i <;> rfl

/-- A move, whatever the host presents: an assignment of the Transaction State with one line op, or
with the response. -/
theorem advance_issuing (s : State) :
    ∃ q p, (∃ op, ∀ xs, advance (issuing xs s) = lineOp op (storeTransaction q p (issuing xs s))) ∨
      ∃ v e, ∀ xs, advance (issuing xs s) = respond v e (storeTransaction q p (issuing xs s)) := by
  cases hd : decodeCommand s.cmd with
  | none =>
    exact ⟨s.pendingByteCount, s.stopOnCompletion, .inr ⟨0x00#8, true, fun xs => by
      simp [advance, issuing, hd, storeTransaction]⟩⟩
  | some i =>
    have hadvance (xs) : advance (issuing xs s) = moveOf i (issuing xs s) := by
      simp [advance, issuing, hd]
    obtain ⟨q, p, hbefore⟩ := beforeOp_issuing i s
    refine ⟨q, p, ?_⟩
    cases hop : (expansion i (storeTransaction q p s))[s.sp]? with
    | some op =>
      refine .inl ⟨op, fun xs => ?_⟩
      have hsp : (issuing xs s).sp = s.sp := rfl
      simp [hadvance, moveOf, hbefore, expansion_issuing, hsp, hop]
    | none =>
      refine .inr ⟨finalResponse i (storeTransaction q p s), false, fun xs => ?_⟩
      have hsp : (issuing xs s).sp = s.sp := rfl
      simp [hadvance, moveOf, hbefore, expansion_issuing, finalResponse_issuing, hsp, hop]

theorem lineOp_issuing (op : LineOp) (xs : List HostInput) (s : State) :
    lineOp op (issuing xs s) = issuing xs (lineOp op s) := by
  cases op <;> rfl

/-- A line op is one event and one advance of `sp` (R29). -/
theorem lineOp_progress (op : LineOp) (s : State) :
    (lineOp op s).sp = s.sp + 1 ∧
      ∃ e, (lineOp op s).trace = s.trace ++ [e] ∧ (opsOf [e]).length = 1 := by
  cases op <;> exact ⟨rfl, _, rfl, rfl⟩

/-- Whatever else the host presents, the move is the same (R31). -/
theorem advance_issuing_comm (xs ys : List HostInput) (s : State) :
    advance (issuing ys s) = issuing ys (advance (issuing xs s)) := by
  obtain ⟨q, p, ⟨op, h⟩ | ⟨v, e, h⟩⟩ := advance_issuing s
  · rw [h, h, ← lineOp_issuing]
    rfl
  · rw [h, h]
    rfl

/-- A move leaves the host's requests and the latched word (R31). -/
theorem advance_hostIn_cmd (s : State) :
    (advance s).hostIn = s.hostIn ∧ (advance s).cmd = s.cmd := by
  obtain ⟨q, p, ⟨op, h⟩ | ⟨v, e, h⟩⟩ := advance_issuing s
  · obtain ⟨-, -, -, hcmd, -, -, -, -, hhost, -⟩ := lineOp_frame op (storeTransaction q p s)
    rw [show advance s = _ from h s.hostIn]
    exact ⟨hhost, hcmd⟩
  · rw [show advance s = _ from h s.hostIn]
    exact ⟨rfl, rfl⟩

/-- A move of a busy engine is one line op, or the response (R29). -/
theorem advance_progress {s : State} (hbusy : s.busy = true) :
    ((advance s).busy = true ∧ (advance s).sp = s.sp + 1 ∧
        ∃ e, (advance s).trace = s.trace ++ [e] ∧ (opsOf [e]).length = 1) ∨
      ((advance s).busy = false ∧ (advance s).sp = s.sp ∧ (advance s).rspValid = true ∧
        (advance s).trace =
          s.trace ++ [.response (advance s).rspData (advance s).rspErr]) := by
  obtain ⟨q, p, ⟨op, h⟩ | ⟨v, e, h⟩⟩ := advance_issuing s
  · obtain ⟨-, -, hb, -⟩ := lineOp_frame op (storeTransaction q p s)
    rw [show advance s = _ from h s.hostIn]
    exact .inl ⟨hb.trans hbusy, lineOp_progress op _⟩
  · rw [show advance s = _ from h s.hostIn]
    exact .inr ⟨rfl, rfl, rfl, rfl⟩

/-- A step of a busy engine that is not reset is the next move of its command. -/
theorem step_of_busy {s : State} (hs : AtHost s) (hbusy : s.busy = true)
    (hreset : s.hostIn.head? ≠ some .reset) : step s = wordOutcome s.cmd (advance s) := by
  obtain ⟨hpins, hlop⟩ := hs
  have hmove : fetchHost s = fetchMove s := by
    cases hhost : s.hostIn with
    | nil => simp [fetchHost, hhost, hbusy]
    | cons x rest =>
      cases x with
      | reset => simp [hhost] at hreset
      | command w => simp [fetchHost, hhost, hbusy]
      | commandThenReset w n => simp [fetchHost, hhost, hbusy]
  simp [step, fetch, hpins, hlop, hmove, fetchMove]

/-- Settles O14: a step of a busy engine is `advance`, which commutes with a change of the host's
requests. -/
theorem busyIgnoresCommands : Obligations.BusyIgnoresCommands := by
  intro s xs ys hs hbusy hxs hys
  obtain ⟨hhost, hcmd⟩ := advance_hostIn_cmd (issuing xs s)
  have hstep (zs) (hzs : zs.head? ≠ some .reset) : step (issuing zs s) =
      wordOutcome s.cmd (issuing zs (advance (issuing xs s))) := by
    rw [← advance_issuing_comm]
    exact step_of_busy hs hbusy hzs
  have hself : issuing xs (advance (issuing xs s)) = advance (issuing xs s) :=
    (advance_issuing_comm xs xs s).symm
  have hx := hstep xs hxs
  rw [hself] at hx
  refine ⟨_, rfl, hhost, hcmd, advance_progress hbusy, ?_⟩
  cases hd : decodeCommand s.cmd with
  | none =>
    rw [if_pos rfl]
    exact ⟨hx.trans (wordOutcome_illegal hd _), (hstep ys hys).trans (wordOutcome_illegal hd _)⟩
  | some i =>
    rw [if_neg (Option.some_ne_none i)]
    exact ⟨hx.trans (wordOutcome_legal hd _), (hstep ys hys).trans (wordOutcome_legal hd _)⟩

/-! The moves of a command, to the end. -/

/-- The command `i` is in progress: latched and not yet answered (R29). -/
def InProgress (i : Instr) (s : State) : Prop := s.busy = true ∧ decodeCommand s.cmd = some i

theorem perform_sp (ops : List LineOp) (s : State) : (perform ops s).sp = s.sp + ops.length := by
  induction ops generalizing s with
  | nil => rfl
  | cons op ops ih =>
    rw [perform, ih, (lineOp_progress op s).1, List.length_cons, Nat.add_assoc, Nat.add_comm 1]

section moves

variable {i : Instr} {s : State} {ops : List LineOp} {n : Nat}

theorem InProgress.lineOp (h : InProgress i s) (op : LineOp) : InProgress i (lineOp op s) := by
  obtain ⟨-, -, hbusy, hcmd, -⟩ := lineOp_frame op s
  exact ⟨hbusy.trans h.1, (congrArg decodeCommand hcmd).trans h.2⟩

theorem InProgress.perform (h : InProgress i s) (ops : List LineOp) :
    InProgress i (perform ops s) := by
  obtain ⟨-, -, hbusy, hcmd, -⟩ := perform_frame ops s
  exact ⟨hbusy.trans h.1, (congrArg decodeCommand hcmd).trans h.2⟩

theorem moves_of_idle (h : s.busy = false) (n : Nat) : moves n s = s := by
  cases n <;> simp [moves, h]

theorem moves_succ (h : InProgress i s) (n : Nat) : moves (n + 1) s = moves n (moveOf i s) := by
  obtain ⟨hbusy, hd⟩ := h
  simp [moves, hbusy, advance, hd]

theorem moveOf_eq_lineOp {op : LineOp} {t : State} (hbefore : beforeOp i s = t)
    (hop : (expansion i t)[t.sp]? = some op) : moveOf i s = lineOp op t := by
  simp [moveOf, hbefore, hop]

/-- When the next moves are the line ops `ops`, as long as the Transaction State stays as it is,
making them is performing `ops`. -/
theorem moves_perform (h : InProgress i s)
    (hmove : ∀ t k op, ops[k]? = some op → t.sp = s.sp + k →
      t.pendingByteCount = s.pendingByteCount → t.stopOnCompletion = s.stopOnCompletion →
      moveOf i t = lineOp op t) :
    moves (ops.length + n) s = moves n (perform ops s) := by
  induction ops generalizing s with
  | nil => simp [perform]
  | cons op ops ih =>
    obtain ⟨hcount, hstop, -⟩ := lineOp_frame op s
    have hsp := (lineOp_progress op s).1
    have hfirst : moveOf i s = lineOp op s := hmove s 0 op rfl rfl rfl rfl
    rw [List.length_cons, Nat.add_right_comm, moves_succ h, hfirst, perform]
    refine ih (h.lineOp op) fun t k op' hop ht hcount' hstop' => ?_
    exact hmove t (k + 1) op' hop (by omega) (hcount'.trans hcount) (hstop'.trans hstop)

/-- The last move, and no move after it. -/
theorem moves_complete (h : InProgress i s) (hbefore : beforeOp i s = s)
    (hlen : (expansion i s).length ≤ s.sp) :
    moves (n + 1) s = complete (finalResponse i s) s := by
  have hlast : moveOf i s = complete (finalResponse i s) s := by simp [moveOf, hbefore, hlen]
  rw [moves_succ h, hlast, moves_of_idle rfl]

/-- The moves of a command whose expansion is the list `ops` throughout. -/
theorem moves_of_fixed_expansion (h : InProgress i s) (hsp : s.sp = 0) (hlen : ops.length ≤ 32)
    (hfixed : ∀ t, t.pendingByteCount = s.pendingByteCount →
      t.stopOnCompletion = s.stopOnCompletion → beforeOp i t = t ∧ expansion i t = ops) :
    moves 33 s = complete (finalResponse i (perform ops s)) (perform ops s) := by
  obtain ⟨hcount, hstop, -⟩ := perform_frame ops s
  obtain ⟨hbefore, hexp⟩ := hfixed _ hcount hstop
  have hn : 33 = ops.length + (32 - ops.length + 1) := by omega
  rw [hn, moves_perform h]
  · exact moves_complete (h.perform ops) hbefore (by rw [hexp, perform_sp]; omega)
  · intro t k op hop ht hcount' hstop'
    obtain ⟨hbefore', hexp'⟩ := hfixed t hcount' hstop'
    have hk : t.sp = k := by omega
    exact moveOf_eq_lineOp hbefore' (by rw [hexp', hk, hop])

end moves

/-! `REQUEST_FROM` is a command with a fixed expansion once it has stored its operands. -/

section requestFrom

variable {a : Addr} {q : Byte} {p : Bool} {s : State}

theorem moves_requestFrom (h : InProgress (.requestFrom a q p) s) (hsp : s.sp = 0) :
    moves 33 s = moves 33 (storeTransaction q p s) := by
  have hstored : InProgress (.requestFrom a q p) (storeTransaction q p s) := h
  rw [moves_succ h, moves_succ hstored]
  simp [moveOf, beforeOp, hsp]

theorem beforeOp_requestFrom (hcount : s.pendingByteCount = q) (hstop : s.stopOnCompletion = p) :
    beforeOp (.requestFrom a q p) s = s := by
  subst hcount hstop
  exact ite_self _

end requestFrom

/-! `READ`: the byte, then the decrement with the first op after it, then the rest (R124). -/

section read

variable {s : State} {op : LineOp} {k : Nat}

theorem readTailOps_eq_cons (pending : Byte) (stop : Bool) :
    ∃ op ops, readTailOps pending stop = op :: ops := by
  unfold readTailOps
  split <;> exact ⟨_, _, rfl⟩

/-- After the byte, the expansion goes on with what the count and the stop bit then say. -/
theorem expansion_read_tail (hsp : s.sp = readByteOps.length + k) :
    (expansion .read s)[s.sp]? = (readTailOps s.pendingByteCount s.stopOnCompletion)[k]? := by
  rw [expansion, if_neg (by simp [hsp]), List.getElem?_append_right (by omega), hsp,
    Nat.add_sub_cancel_left]

theorem moveOf_read_byte (hcount : s.pendingByteCount ≠ 0x00#8)
    (hop : readByteOps[s.sp]? = some op) : moveOf .read s = lineOp op s := by
  have hlt : s.sp < readByteOps.length := (List.getElem?_eq_some_iff.mp hop).1
  refine moveOf_eq_lineOp (if_neg hlt.ne) ?_
  rw [expansion, if_neg fun h => hcount h.2, List.getElem?_append_left hlt, hop]

theorem moveOf_read_decrement (hsp : s.sp = readByteOps.length)
    (hop : (readTailOps (decrementPending s).pendingByteCount s.stopOnCompletion)[0]? = some op) :
    moveOf .read s = lineOp op (decrementPending s) :=
  moveOf_eq_lineOp (if_pos hsp)
    ((expansion_read_tail (s := decrementPending s) (k := 0) hsp).trans hop)

theorem moveOf_read_tail (hsp : s.sp = readByteOps.length + (k + 1))
    (hop : (readTailOps s.pendingByteCount s.stopOnCompletion)[k + 1]? = some op) :
    moveOf .read s = lineOp op s :=
  moveOf_eq_lineOp (if_neg (by omega)) ((expansion_read_tail hsp).trans hop)

theorem moves_read_of_nothing_pending (h : InProgress .read s) (hsp : s.sp = 0)
    (hcount : s.pendingByteCount = 0x00#8) : moves 33 s = complete Config.sentinel s := by
  have hbefore : beforeOp .read s = s := if_neg (by simp [hsp])
  have hexp : expansion .read s = [] := if_pos ⟨hsp, hcount⟩
  rw [moves_complete h hbefore (by simp [hexp]), finalResponse, if_pos hsp]

/-- The moves of the byte. -/
theorem moves_readByte (h : InProgress .read s) (hsp : s.sp = 0)
    (hcount : s.pendingByteCount ≠ 0x00#8) (n : Nat) :
    moves (25 + n) s = moves n (perform readByteOps s) := by
  refine moves_perform (ops := readByteOps) h fun t k op hop ht hcount' _ => ?_
  have hk : t.sp = k := by omega
  exact moveOf_read_byte (hcount' ▸ hcount) (hk ▸ hop)

/-- The moves after the byte, the decrement with the first of them, and the response. -/
theorem moves_readTail (h : InProgress .read s) (hsp : s.sp = readByteOps.length)
    {ops : List LineOp} (n : Nat)
    (hops : readTailOps (decrementPending s).pendingByteCount s.stopOnCompletion = op :: ops) :
    moves (ops.length + (n + 1) + 1) s =
      complete (perform (op :: ops) (decrementPending s)).rx
        (perform (op :: ops) (decrementPending s)) := by
  have hdec : InProgress .read (decrementPending s) := h
  obtain ⟨hcount, hstop, -⟩ := lineOp_frame op (decrementPending s)
  obtain ⟨hcount', hstop', -⟩ := perform_frame (op :: ops) (decrementPending s)
  have hsp' : (lineOp op (decrementPending s)).sp = readByteOps.length + 1 :=
    (lineOp_progress op _).1.trans (congrArg (· + 1) hsp)
  have hend : (perform (op :: ops) (decrementPending s)).sp =
      readByteOps.length + (op :: ops).length :=
    (perform_sp _ _).trans (congrArg (· + _) hsp)
  have hpast : (perform (op :: ops) (decrementPending s)).sp ≠ readByteOps.length := by simp [hend]
  have hstarted : (perform (op :: ops) (decrementPending s)).sp ≠ 0 := by simp [hend]
  have hrest : moves (ops.length + (n + 1)) (lineOp op (decrementPending s)) =
      moves (n + 1) (perform (op :: ops) (decrementPending s)) := by
    refine moves_perform (hdec.lineOp op) fun t k op' hop ht hc hs => ?_
    refine moveOf_read_tail (k := k) (by omega) ?_
    rw [hc, hs, hcount, hstop, decrementPending_stopOnCompletion, hops]
    exact hop
  rw [moves_succ h, moveOf_read_decrement (op := op) hsp (by rw [hops]; rfl), hrest,
    moves_complete (hdec.perform _) (if_neg hpast), finalResponse, if_neg hstarted]
  rw [expansion, if_neg fun h => hstarted h.1, hcount', hstop', decrementPending_stopOnCompletion,
    hops, List.length_append, hend]

/-- The moves of `READ` are `READ`. -/
theorem execRead_eq_moves (h : InProgress .read s) (hsp : s.sp = 0) :
    execRead s = .next (moves 33 s) := by
  by_cases hcount : s.pendingByteCount = 0x00#8
  · rw [moves_read_of_nothing_pending h hsp hcount]
    exact if_pos hcount
  · obtain ⟨op, ops, hops⟩ := readTailOps_eq_cons
      (decrementPending (perform readByteOps s)).pendingByteCount
      (perform readByteOps s).stopOnCompletion
    have hlen : (op :: ops).length ≤ 6 := hops ▸ length_readTailOps_le _ _
    have hrx : (perform (op :: ops) (decrementPending (perform readByteOps s))).rx =
        (perform readByteOps s).rx :=
      perform_rx_of_no_samples (by rw [← hops, samplesIn_readTailOps]) _
    have hbyte : (perform readByteOps s).sp = readByteOps.length := by
      rw [perform_sp, hsp, Nat.zero_add]
    have hn : 33 = 25 + (ops.length + (6 - ops.length + 1) + 1) := by
      rw [List.length_cons] at hlen
      omega
    rw [hn, moves_readByte h hsp hcount, moves_readTail (h.perform _) hbyte _ hops, hrx, execRead,
      if_neg hcount]
    simp only [decrementPending_stopOnCompletion, hops]

end read

/-- Settles O19: a command whose expansion is fixed is its line ops and the response; `REQUEST_FROM`
is one as soon as it has stored its operands, and `READ` is taken in its two parts. -/
theorem commandIsItsMoves : Obligations.CommandIsItsMoves := by
  intro i w s hw
  have h : InProgress i (accept w s) := ⟨rfl, decodeCommand_of_encodeCommand hw⟩
  have fixed := moves_of_fixed_expansion h rfl
    (length_commandOps_le i s.pendingByteCount s.stopOnCompletion)
  cases i with
  | cmdBegin | cmdEnd | beginTx _ | write _ | endTx _ =>
    rw [fixed fun _ _ _ => ⟨rfl, rfl⟩]
    rfl
  | requestFrom a q p =>
    have hstored : InProgress (.requestFrom a q p) (storeTransaction q p (accept w s)) := h
    rw [moves_requestFrom h rfl, moves_of_fixed_expansion hstored rfl (length_addressOps a true).le
      fun _ hcount hstop => ⟨beforeOp_requestFrom hcount hstop, rfl⟩]
    rfl
  | read => exact execRead_eq_moves h rfl
  | releaseClock | assertClockLow | releaseData | assertDataLow | readData => cases hw

end Sys2Proof
end

section
/-! PROOFS. Which command words are legal: those with the opcode of a row of the map and no bit set
that this opcode does not use (R55, R57, R60); where the operands of a legal word stand (R61), and
the words from their operands (R72). -/

namespace Sys2Proof

/-! A word and its fields. -/

/-- `RSV = cmd[19:17]` (R55). -/
def rsvField (w : CmdWord) : BitVec 3 := w.extractLsb' 17 3

/-- `Z = cmd[15]` (R55). -/
def zField (w : CmdWord) : Bool := w.getLsbD 15

theorem getLsbD_eq_of_extractLsb'_eq {v w : CmdWord} {start len i : Nat}
    (h : v.extractLsb' start len = w.extractLsb' start len) (hstart : start ≤ i)
    (hlen : i < start + len) : v.getLsbD i = w.getLsbD i := by
  have hbit := congrArg (·.getLsbD (i - start)) h
  have hlt : i - start < len := by omega
  simpa [BitVec.getLsbD_extractLsb', Nat.add_sub_cancel' hstart, hlt] using hbit

/-- Two words with the same six fields are the same word (R55). -/
theorem word_eq_iff_fields (v w : CmdWord) :
    v = w ↔ opField v = opField w ∧ rsvField v = rsvField w ∧ zField v = zField w ∧
      stopField v = stopField w ∧ addrField v = addrField w ∧ dataField v = dataField w := by
  refine ⟨fun h => h ▸ ⟨rfl, rfl, rfl, rfl, rfl, rfl⟩, ?_⟩
  rintro ⟨hop, hrsv, hz, hstop, haddr, hdata⟩
  apply BitVec.eq_of_getLsbD_eq
  intro i hi
  obtain h | h | rfl | rfl | h | h : i < 8 ∨ (8 ≤ i ∧ i < 15) ∨ i = 15 ∨ i = 16 ∨
      (17 ≤ i ∧ i < 20) ∨ (20 ≤ i ∧ i < 24) := by omega
  · exact getLsbD_eq_of_extractLsb'_eq hdata i.zero_le h
  · exact getLsbD_eq_of_extractLsb'_eq haddr h.1 h.2
  · exact hz
  · exact hstop
  · exact getLsbD_eq_of_extractLsb'_eq hrsv h.1 h.2
  · exact getLsbD_eq_of_extractLsb'_eq hop h.1 h.2

theorem toNat_addrField (w : CmdWord) : (addrField w).toNat = w.toNat / 2 ^ 8 % 2 ^ 7 := by
  rw [addrField, BitVec.extractLsb'_toNat, Nat.shiftRight_eq_div_pow]

theorem toNat_dataField (w : CmdWord) : (dataField w).toNat = w.toNat % 2 ^ 8 := by
  rw [dataField, BitVec.extractLsb'_toNat, Nat.shiftRight_zero]

/-! Rows by their fields. -/

/-- The opcodes that use the field `S` (R55). -/
abbrev UsesStop (op : BitVec 4) : Prop := op = 0x5#4 ∨ op = 0x6#4

/-- The opcodes that use the field `ADDR` (R55). -/
abbrev UsesAddr (op : BitVec 4) : Prop := op = 0x3#4 ∨ op = 0x6#4

/-- The opcodes that use the field `DATA` (R55). -/
abbrev UsesData (op : BitVec 4) : Prop := op = 0x4#4 ∨ op = 0x6#4

/-- Every bit of a word outside the fields that the opcode `op` uses is zero (R55, R60). -/
def UnusedZero (op : BitVec 4) (w : CmdWord) : Prop :=
  rsvField w = 0#3 ∧ zField w = false ∧ (stopField w = false ∨ UsesStop op) ∧
    (addrField w = 0#7 ∨ UsesAddr op) ∧ (dataField w = 0#8 ∨ UsesData op)

/-- A row fixes the opcode, and as zero every field that its opcode does not use (R57). -/
theorem row_fields : ∀ r ∈ commandRows,
    (opField r.mask = BitVec.allOnes 4 ∧ rsvField r.mask = BitVec.allOnes 3 ∧ zField r.mask = true ∧
      stopField r.mask = decide (¬ UsesStop (opField r.pattern)) ∧
      addrField r.mask = (if UsesAddr (opField r.pattern) then 0#7 else BitVec.allOnes 7) ∧
      dataField r.mask = (if UsesData (opField r.pattern) then 0#8 else BitVec.allOnes 8)) ∧
    rsvField r.pattern = 0#3 ∧ zField r.pattern = false ∧ stopField r.pattern = false ∧
      addrField r.pattern = 0#7 ∧ dataField r.pattern = 0#8 := by
  decide

theorem and_mask_eq_zero_iff {n : Nat} (x : BitVec n) (used : Prop) [Decidable used] :
    x &&& (if used then 0#n else BitVec.allOnes n) = 0#n ↔ x = 0#n ∨ used := by
  by_cases h : used <;> simp [h, BitVec.and_allOnes]

/-- A word matches a row when it has the row's opcode and no bit that this opcode does not use. -/
theorem hits_iff_fields {r : Row} (hr : r ∈ commandRows) (w : CmdWord) :
    r.hits w = true ↔ opField w = opField r.pattern ∧ UnusedZero (opField r.pattern) w := by
  have hand : r.hits w = true ↔
      opField w &&& opField r.mask = opField r.pattern ∧
        rsvField w &&& rsvField r.mask = rsvField r.pattern ∧
        (zField w && zField r.mask) = zField r.pattern ∧
        (stopField w && stopField r.mask) = stopField r.pattern ∧
        addrField w &&& addrField r.mask = addrField r.pattern ∧
        dataField w &&& dataField r.mask = dataField r.pattern := by
    simp only [Row.hits, beq_iff_eq, word_eq_iff_fields, opField, rsvField, stopField, zField,
      addrField, dataField, BitVec.extractLsb'_and, BitVec.getLsbD_and]
  obtain ⟨⟨hop, hrsv, hz, hstop, haddr, hdata⟩, hrsv', hz', hstop', haddr', hdata'⟩ :=
    row_fields r hr
  rw [hand, hop, hrsv, hz, hstop, haddr, hdata, hrsv', hz', hstop', haddr', hdata',
    BitVec.and_allOnes, BitVec.and_allOnes, Bool.and_true, and_mask_eq_zero_iff,
    and_mask_eq_zero_iff, Bool.and_eq_false_iff, decide_eq_false_iff_not, not_not, UnusedZero]

/-- The opcodes of the map (R57, R60). -/
theorem exists_row_iff : ∀ op : BitVec 4,
    (∃ r ∈ commandRows, op = opField r.pattern) ↔ ¬ (op = 0x0#4 ∨ 0x8#4 ≤ op) := by
  decide

/-! Decoding. -/

/-- A word is legal when it matches a row (R59, R60). -/
theorem decodeCommand_ne_none_iff (w : CmdWord) :
    decodeCommand w ≠ none ↔ ∃ r ∈ commandRows, r.hits w = true := by
  simp only [commandRows, List.exists_mem_cons_iff]
  unfold decodeCommand
  split_ifs <;> simp [*]

/-- A word is illegal when no row has its opcode, or a bit is set that its opcode does not use. -/
theorem decodeCommand_eq_none_iff (w : CmdWord) :
    decodeCommand w = none ↔
      (opField w = 0x0#4 ∨ 0x8#4 ≤ opField w) ∨ ¬ UnusedZero (opField w) w := by
  have hlegal : decodeCommand w ≠ none ↔
      (∃ r ∈ commandRows, opField w = opField r.pattern) ∧ UnusedZero (opField w) w := by
    rw [decodeCommand_ne_none_iff]
    constructor
    · rintro ⟨r, hr, h⟩
      obtain ⟨hop, hzero⟩ := (hits_iff_fields hr w).mp h
      exact ⟨⟨r, hr, hop⟩, hop ▸ hzero⟩
    · rintro ⟨⟨r, hr, hop⟩, hzero⟩
      exact ⟨r, hr, (hits_iff_fields hr w).mpr ⟨hop, hop ▸ hzero⟩⟩
  rw [← not_iff_not, ← ne_eq, hlegal, exists_row_iff, not_or (p := _ ∨ _), not_not]

/-- Settles O4: `decodeCommand` tries the rows of the map, and two rows that a word matches both
have its opcode. -/
theorem rowsExclusive : Obligations.RowsExclusive := by
  intro w
  have hits (r : Row) : w &&& r.mask = r.pattern ↔ r.hits w = true := beq_iff_eq.symm
  simp only [hits]
  refine ⟨decodeCommand_ne_none_iff w, fun r₁ hr₁ r₂ hr₂ h₁ h₂ => ?_⟩
  exact row_eq_of_opField r₁ hr₁ r₂ hr₂
    ((opField_of_hits hr₁ h₁).symm.trans (opField_of_hits hr₂ h₂))

/-- Settles O7: the fields that an opcode does not use are those of `UnusedZero`. -/
theorem illegalWordsExactly : Obligations.IllegalWordsExactly := by
  intro w
  rw [decodeCommand_eq_none_iff, UnusedZero]
  simp only [not_and_or, not_or, Bool.not_eq_false, or_assoc]
  rfl

/-! Operands. -/

/-- The operands of the instruction are the fields of the word (R61). -/
def OperandsFrom (w : CmdWord) : Instr → Prop
  | .beginTx a => a = addrField w
  | .write b => b = dataField w
  | .endTx p => p = stopField w
  | .requestFrom a q p => a = addrField w ∧ q = dataField w ∧ p = stopField w
  | .cmdBegin | .cmdEnd | .read => True
  | .releaseClock | .assertClockLow | .releaseData | .assertDataLow | .readData => True

theorem operandsFrom_of_decodeCommand {w : CmdWord} {i : Instr} (h : decodeCommand w = some i) :
    OperandsFrom w i := by
  unfold decodeCommand at h
  split_ifs at h <;> cases h <;> simp [OperandsFrom]

/-- Settles O6: the decoded operands are the fields, and a field is the bits of the word that R61
gives it. -/
theorem operandFields : Obligations.OperandFields := by
  intro w
  refine ⟨fun a h => ?_, fun b h => ?_, fun p h => operandsFrom_of_decodeCommand h,
    fun a q p h => ?_⟩
  · obtain rfl : a = addrField w := operandsFrom_of_decodeCommand h
    exact toNat_addrField w
  · obtain rfl : b = dataField w := operandsFrom_of_decodeCommand h
    exact toNat_dataField w
  · obtain ⟨rfl, rfl, rfl⟩ : _ ∧ _ ∧ _ := operandsFrom_of_decodeCommand h
    exact ⟨toNat_addrField w, toNat_dataField w, rfl⟩

/-- The fields of a packed word as shifted operands (R55, R72). -/
theorem packCommand_eq_or (op : BitVec 4) (s : Bool) (a : Addr) (d : Byte) :
    packCommand op s a d = op.zeroExtend 24 <<< 20 ||| (BitVec.ofBool s).zeroExtend 24 <<< 16 |||
      a.zeroExtend 24 <<< 8 ||| d.zeroExtend 24 := by
  apply BitVec.eq_of_getLsbD_eq
  intro i hi
  simp only [getLsbD_packCommand, BitVec.getLsbD_or, BitVec.getLsbD_shiftLeft,
    BitVec.truncate_eq_setWidth, BitVec.getLsbD_setWidth, BitVec.getLsbD_ofBool]
  interval_cases i <;> simp

/-- Settles O5: a field that a command does not use is zero and drops out of the formula. -/
theorem commandWordFormulas : Obligations.CommandWordFormulas := by
  refine ⟨rfl, rfl, fun a => ?_, fun b => ?_, fun p => ?_, fun a q p => ?_, rfl, rfl⟩ <;>
    simp [encodeCommand, packCommand_eq_or]

end Sys2Proof
end

section
/-! PROOFS. The assembler (R62, R67, R68): its forms, and that it gives words of commands only. -/

namespace Sys2Proof

open Machine

/-- The mnemonics, each with its numbers of operands (R67, R68). -/
def assemblyForms : List (String × Nat) :=
  [("BEGIN", 0), ("END", 0), ("READ", 0), ("END_TX", 0), ("BEGIN_TX", 1), ("WRITE", 1),
    ("END_TX", 1), ("REQUEST_FROM", 2), ("REQUEST_FROM", 3)]

/-- Only a form of R67 assembles, and what it assembles to is the word of a command. -/
theorem assemble_eq_some {m : String} {ops : List Nat} {w : CmdWord}
    (h : assemble m ops = some w) :
    (m, ops.length) ∈ assemblyForms ∧ ∃ i, encodeCommand i = some w := by
  match ops with
  | [] | [_] | [_, _] | [_, _, _] =>
    simp only [assemble] at h
    split_ifs at h <;> exact ⟨by simp [assemblyForms, *], _, h⟩
  | _ :: _ :: _ :: _ :: _ => cases h

/-- Settles O8: each form by its branch of `assemble`; nothing else assembles, and the word of a
command decodes. -/
theorem assemblerForms : Obligations.AssemblerForms := by
  refine ⟨rfl, rfl, rfl, rfl, rfl, fun a q => ?_, fun p => ?_, fun a q p => ?_, fun a => ?_,
    fun b => ?_, fun m ops w h => ?_⟩
  · simp [assemble, stopOperandOk]
  · simp [assemble, stopOperandOk]
  · simp [assemble, addrOperandOk, byteOperandOk, stopOperandOk]
  · simp [assemble, addrOperandOk]
  · simp [assemble, byteOperandOk]
  · obtain ⟨hform, i, hi⟩ := assemble_eq_some h
    exact ⟨hform, i, decodeCommand_of_encodeCommand hi⟩

end Sys2Proof
end

section
/-! PROOFS. What a step runs when a line-op code stands on the line driver's interface (R64, R65)
and when the host presents a word to a ready engine (R60, R69). -/

namespace Sys2Proof

open Machine

/-! A line-op code. -/

/-- A code on the line driver's interface is what a step looks at first. -/
theorem fetch_of_lopIn {s : State} {c : LopCode} (hpins : s.cfg.pinsDistinct = true)
    (hlop : s.lopIn = some c) : fetch s = fetchLop c { s with lopIn := none } := by
  simp [fetch, hpins, hlop]

/-- The code of a line op decodes to it (R64). -/
theorem decodeLop_of_encodeLop {i : Instr} {c : LopCode} (h : encodeLop i = some c) :
    decodeLop c = some i := by
  cases i with
  | cmdBegin | cmdEnd | beginTx _ | write _ | endTx _ | requestFrom _ _ _ | read => cases h
  | releaseClock | assertClockLow | releaseData | assertDataLow | readData =>
    cases h
    decide

/-- Settles O9: none of the three codes decodes, as the code of an instruction would. -/
theorem reservedLineOpsRefused : Obligations.ReservedLineOpsRefused := by
  intro c hc
  have hnone : decodeLop c = none := by
    obtain rfl | rfl | rfl := hc <;> decide
  refine ⟨hnone, fun i hi => ?_, fun s hpins hlop => ?_⟩
  · rw [decodeLop_of_encodeLop hi] at hnone
    cases hnone
  · simp [step, fetch_of_lopIn hpins hlop, fetchLop, hnone]

/-- Settles O11: the fetch hands over the line op with the code taken. -/
theorem stepRunsLineOp : Obligations.StepRunsLineOp := by
  intro s c i hpins hlop hdecode
  simp [step, fetch_of_lopIn hpins hlop, fetchLop, hdecode]

/-! A command word. -/

/-- Settles O10: nothing comes before the word presented, and it runs in its accepted state. -/
theorem stepRunsDecodedCommand : Obligations.StepRunsDecodedCommand := by
  rintro s w rest i ⟨⟨hpins, hlop⟩, hbusy⟩ hhost hdecode
  simp [step, fetch, hpins, hlop, fetchHost, hhost, hbusy, fetchCommand, hdecode, accept]

/-- Settles O13: the state refused is that of the accepted word, completed at once. -/
theorem illegalWordResponse : Obligations.IllegalWordResponse := fun _ _ _ hs hhost hw =>
  step_illegalWord hs hhost hw

end Sys2Proof
end

section
/-! PROOFS. The responses of the commands (R66): what the samples of a command leave in `rx`. -/

namespace Sys2Proof

open Machine

/-! The local value a command's samples leave. -/

/-- The samples of a command are the coming ones, from the first on. -/
theorem performed_rx (i : Instr) (s : State) :
    (performed i s).rx = rxOf (upcomingBit s) 0 s.rx
      (commandOps i s.pendingByteCount s.stopOnCompletion) := by
  rw [performed, perform_eq _ _ (opsValid_commandOps _ _ _ _)]
  rfl

/-- The address frame of a command is a `WRITE_BYTE`, with one sample (R104). -/
theorem rxOf_addressOps (b : Nat → Bool) (v : Byte) (addr : Addr) (rw : Bool) :
    rxOf b 0 v (addressOps addr rw) = shiftIn v (b 0) := by
  simp [addressOps]

/-- What follows the byte of a `READ` takes no sample (R124). -/
theorem rxOf_readTailOps (b : Nat → Bool) (k : Nat) (v pending : Byte) (stop : Bool) :
    rxOf b k v (readTailOps pending stop) = v := by
  unfold readTailOps
  split
  · rfl
  · cases stop <;> rfl

theorem performed_read_rx {s : State} (h : s.pendingByteCount ≠ 0x00#8) :
    (performed .read s).rx = upcomingByte s := by
  rw [performed_rx, commandOps_read_of_pending h, rxOf_append, rxOf_readTailOps, readByteOps_byte]

/-! The responses. -/

theorem levelBit_eq_decide (l : Level) : levelBit l = decide (l = .high) := by
  cases l <;> rfl

/-- The response to a frame sent says whether its one sample was LOW (R66, R104). -/
theorem ackResponse_shiftIn (v : Byte) (s : State) (k : Nat) :
    ackResponse (shiftIn v (upcomingBit s k)) = if upcoming s k = .low then 0x00#8 else 0x01#8 := by
  rw [ackResponse, ackBit_shiftIn, upcomingBit]
  cases upcoming s k <;> rfl

theorem requestResponse_shiftIn (q v : Byte) (s : State) (k : Nat) :
    requestResponse q (shiftIn v (upcomingBit s k)) =
      if upcoming s k = .low then q else 0x00#8 := by
  rw [requestResponse, ackBit_shiftIn, upcomingBit]
  cases upcoming s k <;> rfl

/-- The samples of a byte read are its bits, bit 7 first (R106). -/
theorem getLsbD_upcomingByte (s : State) {k : Nat} (hk : k < 8) :
    (upcomingByte s).getLsbD (7 - k) = decide (upcoming s k = .high) := by
  rw [upcomingByte, BitVec.getLsbD_ofFnLE, dif_pos (by omega), upcomingBit, levelBit_eq_decide]
  simp only [Nat.sub_sub_self (Nat.le_of_lt_succ hk)]

/-- A command completes with its response and no error (R32, R133). -/
theorem response_exec {i : Instr} {s t : State} (hi : i.hostIssuable = true)
    (ht : exec i s = .next t) :
    t.rspValid = true ∧ t.rspErr = false ∧
      t.rspData = commandResponse i s.pendingByteCount (performed i s).rx := by
  rw [exec_eq_leaves hi] at ht
  cases ht
  exact ⟨rfl, rfl, rfl⟩

/-- Settles O47: the response of the closed form, by the samples that the command takes; an illegal
word by the state its refusal carries. -/
theorem responseTable : Obligations.ResponseTable := by
  refine ⟨fun i s t hi ht => ?_,
    fun s w rest hs hhost hw => ⟨_, step_illegalWord hs hhost hw, rfl, rfl, rfl⟩⟩
  obtain ⟨hvalid, herr, hdata⟩ := response_exec hi ht
  refine ⟨hvalid, herr, ?_⟩
  cases i with
  | cmdBegin | cmdEnd | endTx _ => exact hdata
  | beginTx addr =>
    rwa [commandResponse, performed_rx, commandOps, rxOf_addressOps, ackResponse_shiftIn] at hdata
  | write byte =>
    rwa [commandResponse, performed_rx, commandOps, writeByteOps_rx, ackResponse_shiftIn] at hdata
  | requestFrom addr q p =>
    rwa [commandResponse, performed_rx, commandOps, rxOf_addressOps,
      requestResponse_shiftIn] at hdata
  | read =>
    dsimp only
    split
    next h => exact hdata.trans (if_pos h)
    next h =>
      have hbyte : t.rspData = upcomingByte s :=
        hdata.trans ((if_neg h).trans (performed_read_rx h))
      intro k hk
      rw [hbyte, getLsbD_upcomingByte s hk]
  | releaseClock | assertClockLow | releaseData | assertDataLow | readData => cases hi

end Sys2Proof
end

section
/-! PROOFS. The line driver (40_line_driver.md): what each line op does and leaves (R75 to R80, R85),
and that the length of the delay decides nothing but the delays recorded (R84). -/

namespace Sys2Proof

open Machine

/-! Line ops as instructions. -/

/-- The table row of a line op (R64). -/
def instrOfLineOp : LineOp → Instr
  | .releaseClock => .releaseClock
  | .assertClockLow => .assertClockLow
  | .releaseData => .releaseData
  | .assertDataLow => .assertDataLow
  | .readData => .readData

theorem exec_instrOfLineOp (op : LineOp) (s : State) :
    exec (instrOfLineOp op) s = .next (lineOp op s) := by
  cases op <;> rfl

/-- The instructions the host cannot issue are the line ops (R71). -/
theorem exists_eq_instrOfLineOp {i : Instr} (hi : i.hostIssuable = false) :
    ∃ op, i = instrOfLineOp op := by
  cases i with
  | cmdBegin | cmdEnd | beginTx _ | write _ | endTx _ | requestFrom _ _ _ | read => cases hi
  | releaseClock => exact ⟨.releaseClock, rfl⟩
  | assertClockLow => exact ⟨.assertClockLow, rfl⟩
  | releaseData => exact ⟨.releaseData, rfl⟩
  | assertDataLow => exact ⟨.assertDataLow, rfl⟩
  | readData => exact ⟨.readData, rfl⟩

/-! The setters. -/

/-- A release of SDA is a STOP exactly when it changes SDA with SCL released (R78). -/
theorem conditions_releaseData (l : Lines) (d : Nat) :
    conditions Held.none l [.op .releaseData d] =
      if l.scl = .released ∧ l.sda = .assertedLow then [.stop] else [] := by
  obtain ⟨scl, sda⟩ := l
  cases scl <;> cases sda <;> rfl

/-- An assertion of SDA is a START exactly when it changes SDA with SCL released (R79). -/
theorem conditions_assertDataLow (l : Lines) (d : Nat) :
    conditions Held.none l [.op .assertDataLow d] =
      if l.scl = .released ∧ l.sda = .released then [.start] else [] := by
  obtain ⟨scl, sda⟩ := l
  cases scl <;> cases sda <;> rfl

/-- Settles O20: the setters are the updates the statement writes out; the conditions are those of
the two data ops. -/
theorem settersResult : Obligations.SettersResult := fun s =>
  ⟨rfl, rfl, rfl, rfl, rfl, rfl, rfl, rfl, conditions_releaseData (linesOf s),
    conditions_assertDataLow (linesOf s)⟩

/-! The sample. -/

/-- Settles O21: with SDA released the level read is the one the devices present. -/
theorem readDataResult : Obligations.ReadDataResult := by
  intro s hs
  refine ⟨?_, rfl⟩
  rw [upcomingBit, ← sdaLevel_released hs]
  rfl

/-- Settles O22: with SDA asserted the level read is the free value. -/
theorem invalidReadIsFree : Obligations.InvalidReadIsFree := by
  intro s hs
  rw [← sdaLevel_asserted hs]
  rfl

/-! The frame. -/

/-- Settles O50: no line op writes the fields of `lineOp_frame`, and only the ops that a clause's
premise excludes write the fields of that clause. -/
theorem lineOpFrame : Obligations.LineOpFrame := by
  intro i s t hi ht
  obtain ⟨op, rfl⟩ := exists_eq_instrOfLineOp hi
  rw [exec_instrOfLineOp] at ht
  cases ht
  obtain ⟨hcount, hstop, hbusy, hcmd, hvalid, hdata, herr, hcfg, hhost, hlop⟩ := lineOp_frame op s
  refine ⟨hcount, hstop, hbusy, hcmd, hvalid, hdata, herr, hcfg, hhost, hlop, fun h => ?_,
    fun h => ?_, fun h => ?_⟩
  · cases op with
    | releaseClock | assertClockLow | readData => rfl
    | releaseData | assertDataLow => simp [instrOfLineOp] at h
  · cases op with
    | releaseData | assertDataLow | readData => rfl
    | releaseClock | assertClockLow => simp [instrOfLineOp] at h
  · cases op with
    | releaseClock | assertClockLow | releaseData | assertDataLow => exact ⟨rfl, rfl, rfl⟩
    | readData => exact absurd rfl h

/-! The length of the delay. -/

/-- `s` with the bit delay `d`. -/
def withDelay (d : Nat) (s : State) : State :=
  { s with cfg := { s.cfg with bitDelayMicros := d } }

/-- Erasing the delays of events leaves those of an engine with no delay. -/
theorem map_eraseDelay_eventsOf (d : Nat) (b : Nat → Bool) (k : Nat) (ops : List LineOp) :
    (eventsOf d b k ops).map Event.eraseDelay = eventsOf 0 b k ops := by
  induction ops generalizing k with
  | nil => rfl
  | cons op ops ih => cases op <;> simp [eventsOf, Event.eraseDelay, ih]

/-- Erasing the delays of requests leaves those of an engine with no delay. -/
theorem map_eraseDelay_gpioOf (c : Cfg) (lv : Nat → Level) (k : Nat) (ops : List LineOp) :
    (gpioOf c lv k ops).map GpioCall.eraseDelay =
      gpioOf { c with bitDelayMicros := 0 } lv k ops := by
  induction ops generalizing k with
  | nil => rfl
  | cons op ops ih => cases op <;> simp [gpioOf, GpioCall.eraseDelay, ih]

theorem map_eraseDelay_addedEvents (i : Instr) (v : Byte) (s : State) :
    (addedEvents i v s).map Event.eraseDelay = addedEvents i v (withDelay 0 s) := by
  rw [addedEvents, List.map_append, eventsFrom, map_eraseDelay_eventsOf]
  rfl

/-- The samples of a command, and so its response, do not depend on the delay. -/
theorem performed_rx_withDelay (i : Instr) (d : Nat) (s : State) :
    (performed i (withDelay d s)).rx = (performed i s).rx := by
  rw [performed_rx, performed_rx]
  rfl

/-- A command of an engine with another delay: the same closed form with the same response. -/
theorem exec_withDelay {i : Instr} (hi : i.hostIssuable = true) (d : Nat) (s : State) :
    exec i (withDelay d s) = .next
      (leaves i (commandResponse i s.pendingByteCount (performed i s).rx) (withDelay d s)) := by
  rw [exec_eq_leaves hi, performed_rx_withDelay]
  rfl

/-- Settles O54: a line op reads the delay only where it records it, and so does the closed form of
a command. -/
theorem delayDoesNotSteer : Obligations.DelayDoesNotSteer := by
  intro i s d
  cases hi : i.hostIssuable with
  | false =>
    obtain ⟨op, rfl⟩ := exists_eq_instrOfLineOp hi
    cases op <;> exact ⟨_, _, _, _, _, _, rfl, rfl, rfl, rfl, rfl, rfl, rfl, rfl, rfl, rfl⟩
  | true =>
    refine ⟨_, _, _, _, _, _, exec_eq_leaves hi s, exec_withDelay hi d s, rfl, leaves_trace ..,
      leaves_trace .., ?_, ?_, rfl, rfl, ?_⟩
    · rw [opsOf_addedEvents, opsOf_addedEvents]
      rfl
    · rw [map_eraseDelay_addedEvents, map_eraseDelay_addedEvents]
      rfl
    · rw [map_eraseDelay_gpioOf, map_eraseDelay_gpioOf]
      rfl

end Sys2Proof
end

section
/-! PROOFS. The START / STOP generator (41_start_stop_gen.md): the conditions its sequences make from
each entry state (R90 to R92, R94, R95), and that a line held low defeats them (R96). -/

namespace Sys2Proof

open Machine

/-! The conditions of a stretch that begins with a given setter. -/

/-- A change of the clock alone is no condition. -/
theorem conditionOf_scl (h : Held) (l : Lines) (st : LineState) :
    conditionOf h l { l with scl := st } = [] := by
  unfold conditionOf
  split
  next hsda hsda' => exact absurd (hsda.symm.trans hsda') (by decide)
  next hsda hsda' => exact absurd (hsda.symm.trans hsda') (by decide)
  next => rfl

theorem conditions_releaseClock_cons (h : Held) (l : Lines) (d : Nat) (es : List Event) :
    conditions h l (.op .releaseClock d :: es) = conditions h ⟨.released, l.sda⟩ es :=
  congrArg (· ++ _) (conditionOf_scl h l .released)

theorem conditions_assertClockLow_cons (h : Held) (l : Lines) (d : Nat) (es : List Event) :
    conditions h l (.op .assertClockLow d :: es) = conditions h ⟨.assertedLow, l.sda⟩ es :=
  congrArg (· ++ _) (conditionOf_scl h l .assertedLow)

theorem conditions_releaseData_cons (l : Lines) (d : Nat) (es : List Event) :
    conditions Held.none l (.op .releaseData d :: es) =
      (if l.scl = .released ∧ l.sda = .assertedLow then [.stop] else []) ++
        conditions Held.none ⟨l.scl, .released⟩ es := by
  rw [← conditions_releaseData l d]
  exact conditions_append Held.none l [.op .releaseData d] es

theorem conditions_assertDataLow_cons (l : Lines) (d : Nat) (es : List Event) :
    conditions Held.none l (.op .assertDataLow d :: es) =
      (if l.scl = .released ∧ l.sda = .released then [.start] else []) ++
        conditions Held.none ⟨l.scl, .assertedLow⟩ es := by
  rw [← conditions_assertDataLow l d]
  exact conditions_append Held.none l [.op .assertDataLow d] es

/-- Line ops without a sample take one delay each (R75). -/
theorem totalDelay_eventsOf_setters {ops : List LineOp} (h : samplesIn ops = 0) (d : Nat)
    (b : Nat → Bool) (k : Nat) : totalDelay (eventsOf d b k ops) = ops.length * d := by
  have hd := totalDelay_eventsOf d b k ops
  rwa [h, Nat.zero_mul, Nat.add_zero] at hd

/-! The conditions of the three sequences, by the line states they are entered with. -/

section sequences

variable (l : Lines) (d : Nat) (b : Nat → Bool) (k : Nat)

/-- `RELEASE_BOTH` releases SDA with the clock already released, a STOP if SDA was asserted (R90). -/
theorem conditions_releaseBothOps :
    conditions Held.none l (eventsOf d b k releaseBothOps) =
      if l.sda = .assertedLow then [.stop] else [] := by
  rw [releaseBothOps, eventsOf, eventsOf, eventsOf, conditions_releaseClock_cons,
    conditions_releaseData]
  simp

/-- Once both lines are released, `START` asserts SDA with the clock released (R91, R92). -/
theorem conditions_startOps :
    conditions Held.none l (eventsOf d b k startOps) =
      if l.sda = .assertedLow then [.stop, .start] else [.start] := by
  have hstart : conditions Held.none ⟨.released, .released⟩
      (eventsOf d b (k + samplesIn releaseBothOps) [.assertDataLow, .assertClockLow]) = [.start] :=
    rfl
  rw [startOps, eventsOf_append, conditions_append, conditions_releaseBothOps,
    afterEvents_eventsOf, releaseBothOps_after, hstart]
  split <;> rfl

/-- `STOP` ends in a STOP; its first op is a START exactly when it changes SDA with the clock
released, on an idle bus (R94, R95). -/
theorem conditions_stopOps :
    conditions Held.none l (eventsOf d b k stopOps) =
      if l = ⟨.released, .released⟩ then [.start, .stop] else [.stop] := by
  have hstop : conditions Held.none ⟨l.scl, .assertedLow⟩
      (eventsOf d b k [.releaseClock, .releaseData]) = [.stop] :=
    (conditions_releaseBothOps ⟨l.scl, .assertedLow⟩ d b k).trans (if_pos rfl)
  have hidle : (l.scl = .released ∧ l.sda = .released) ↔ l = ⟨.released, .released⟩ := by
    cases l
    simp
  rw [stopOps, eventsOf, conditions_assertDataLow_cons, hstop, if_congr hidle rfl rfl]
  split <;> rfl

end sequences

/-- Settles O24: the line states are those of the four ops, the conditions those of
`conditions_startOps`. -/
theorem startByEntry : Obligations.StartByEntry := fun l d b =>
  ⟨rfl, rfl, rfl, rfl, startOps_after l, conditions_startOps l d b 0,
    totalDelay_eventsOf_setters startOps_samples d b 0⟩

/-- Settles O25: the line states are those of the three ops, the conditions those of
`conditions_stopOps`. -/
theorem stopByEntry : Obligations.StopByEntry := fun l d b =>
  ⟨rfl, rfl, rfl, stopOps_after l, conditions_stopOps l d b 0,
    totalDelay_eventsOf_setters stopOps_samples d b 0⟩

/-- Settles O26: the clock is released first, so the release of SDA is seen (R90). -/
theorem releaseBothByEntry : Obligations.ReleaseBothByEntry := fun l d b =>
  ⟨rfl, releaseBothOps_after l, conditions_releaseBothOps l d b 0,
    totalDelay_eventsOf_setters releaseBothOps_samples d b 0⟩

/-! A line held low. -/

/-- A line that a device holds is LOW whatever the engine does (R27). -/
theorem lineLevel_held (st : LineState) : lineLevel st true = .low :=
  (wiredAnd st true).mpr (.inr rfl)

/-- With SDA held there is no edge on SDA, with SCL held no edge with SCL HIGH: no change of line
states is a condition. -/
theorem conditionOf_of_held {h : Held} (hheld : h.sda = true ∨ h.scl = true) (l l' : Lines) :
    conditionOf h l l' = [] := by
  unfold conditionOf
  rcases hheld with hsda | hscl
  · rw [hsda, lineLevel_held, lineLevel_held]
    cases lineLevel l.scl h.scl <;> cases lineLevel l'.scl h.scl <;> rfl
  · rw [hscl, lineLevel_held, lineLevel_held]

/-- With a line held no stretch of events, whatever its ops, makes a condition. -/
theorem conditions_of_held {h : Held} (hheld : h.sda = true ∨ h.scl = true) (l : Lines)
    (es : List Event) : conditions h l es = [] := by
  induction es generalizing l with
  | nil => rfl
  | cons e es ih => rw [conditions, conditionOf_of_held hheld, ih, List.append_nil]

/-- Settles O27: a held line leaves no condition in any stretch, so in neither sequence. -/
theorem heldLineDefeatsConditions : Obligations.HeldLineDefeatsConditions := fun _ l _ _ hheld =>
  ⟨conditions_of_held hheld l _, conditions_of_held hheld l _⟩

end Sys2Proof
end

section
/-! PROOFS. Byte transmit and receive (42_byte_tx_rx.md): what the sequences put on the wire (R101 to
R105, R107, R108), the clock phases of a frame (R110, R111), the byte that `READ_BYTE` assembles
(R106) and that every sample of a command is valid (R109). -/

namespace Sys2Proof

open Machine

/-! The observations of joined line ops are those of the parts, each from the lines it is entered
with. -/

theorem sdaAtEdges_eventsOf_append (l : Lines) (d : Nat) (b : Nat → Bool) (k : Nat)
    (xs ys : List LineOp) :
    sdaAtEdges l (eventsOf d b k (xs ++ ys)) = sdaAtEdges l (eventsOf d b k xs) ++
      sdaAtEdges (l.afterOps xs) (eventsOf d b (k + samplesIn xs) ys) := by
  rw [eventsOf_append, sdaAtEdges_append, afterEvents_eventsOf]

theorem conditions_eventsOf_append (h : Held) (l : Lines) (d : Nat) (b : Nat → Bool) (k : Nat)
    (xs ys : List LineOp) :
    conditions h l (eventsOf d b k (xs ++ ys)) = conditions h l (eventsOf d b k xs) ++
      conditions h (l.afterOps xs) (eventsOf d b (k + samplesIn xs) ys) := by
  rw [eventsOf_append, conditions_append, afterEvents_eventsOf]

/-! The sequences of one clock pulse, entered with SCL asserted. -/

/-- The master's acknowledge is a sent bit: 0 for ACK, 1 for NACK (R107, R108). -/
theorem sendAckOps_eq_writeBitOps : sendAckOps = writeBitOps false := rfl

theorem sendNackOps_eq_writeBitOps : sendNackOps = writeBitOps true := rfl

section pulse

variable {l : Lines} (d : Nat) (b : Nat → Bool) (k : Nat)

theorem sdaAtEdges_pulseClockOps (hl : l.scl = .assertedLow) :
    sdaAtEdges l (eventsOf d b k pulseClockOps) = [l.sda] := by
  obtain ⟨scl, sda⟩ := l
  cases hl
  rfl

theorem sdaAtEdges_writeBitOps (hl : l.scl = .assertedLow) (bit : Bool) :
    sdaAtEdges l (eventsOf d b k (writeBitOps bit)) = [lineOfBit bit] := by
  obtain ⟨scl, sda⟩ := l
  cases hl
  cases bit <;> rfl

theorem sdaAtEdges_ackCaptureOps (hl : l.scl = .assertedLow) :
    sdaAtEdges l (eventsOf d b k ackCaptureOps) = [.released] := by
  obtain ⟨scl, sda⟩ := l
  cases hl
  rfl

/-- A bit is put on SDA while SCL is asserted, which is no condition (R102). -/
theorem conditions_writeBitOps (hl : l.scl = .assertedLow) (bit : Bool) :
    conditions Held.none l (eventsOf d b k (writeBitOps bit)) = [] := by
  obtain ⟨scl, sda⟩ := l
  cases hl
  cases bit <;> cases sda <;> rfl

theorem conditions_ackCaptureOps (hl : l.scl = .assertedLow) :
    conditions Held.none l (eventsOf d b k ackCaptureOps) = [] := by
  obtain ⟨scl, sda⟩ := l
  cases hl
  cases sda <;> rfl

end pulse

/-- Settles O28: the line states from every entry, and one edge from SCL asserted; `SEND_ACK` and
`SEND_NACK` are sent bits. -/
theorem bitSequences : Obligations.BitSequences := by
  intro l d b bit
  refine ⟨rfl, rfl, rfl, writeBitOps_after l bit, rfl, ackCaptureOps_after l, rfl,
    sendAckOps_after l, rfl, sendNackOps_after l, totalDelay_eventsOf_setters rfl d b 0,
    totalDelay_eventsOf_setters (writeBitOps_samples bit) d b 0, ?_,
    totalDelay_eventsOf_setters sendAckOps_samples d b 0,
    totalDelay_eventsOf_setters sendNackOps_samples d b 0, fun hl => ?_⟩
  · have hdelay := totalDelay_eventsOf d b 0 ackCaptureOps
    rw [ackCaptureOps_samples, ackCaptureOps_length] at hdelay
    omega
  · exact ⟨sdaAtEdges_pulseClockOps d b 0 hl, sdaAtEdges_writeBitOps d b 0 hl bit,
      sdaAtEdges_ackCaptureOps d b 0 hl, sdaAtEdges_writeBitOps d b 0 hl false,
      sdaAtEdges_writeBitOps d b 0 hl true⟩

/-! A list of bits sent, entered with SCL asserted. -/

/-- The line ops that send the bits of a list in order (R102). -/
def writeBitsOps (bits : List Bool) : List LineOp := bits.flatMap writeBitOps

theorem writeBitsOps_cons (bit : Bool) (bits : List Bool) :
    writeBitsOps (bit :: bits) = writeBitOps bit ++ writeBitsOps bits := rfl

theorem writeByteOps_eq_bits (v : Byte) :
    writeByteOps v = writeBitsOps (wireBits v) ++ ackCaptureOps := rfl

theorem samplesIn_writeBitsOps (bits : List Bool) : samplesIn (writeBitsOps bits) = 0 := by
  induction bits with
  | nil => rfl
  | cons bit bits ih => rw [writeBitsOps_cons, samplesIn_append, writeBitOps_samples, ih]

theorem writeBitOps_after_scl (l : Lines) (bit : Bool) :
    (l.afterOps (writeBitOps bit)).scl = .assertedLow := by
  rw [writeBitOps_after]

section bits

variable (d : Nat) (b : Nat → Bool) (k : Nat)

theorem writeBitsOps_after_scl {l : Lines} (hl : l.scl = .assertedLow) (bits : List Bool) :
    (l.afterOps (writeBitsOps bits)).scl = .assertedLow := by
  induction bits generalizing l with
  | nil => exact hl
  | cons bit bits ih =>
    rw [writeBitsOps_cons, afterOps_append]
    exact ih (writeBitOps_after_scl l bit)

/-- Every bit sent makes one edge, with SDA at the bit (R102). -/
theorem sdaAtEdges_writeBitsOps {l : Lines} (hl : l.scl = .assertedLow) (bits : List Bool) :
    sdaAtEdges l (eventsOf d b k (writeBitsOps bits)) = bits.map lineOfBit := by
  induction bits generalizing l k with
  | nil => rfl
  | cons bit bits ih =>
    rw [writeBitsOps_cons, sdaAtEdges_eventsOf_append, sdaAtEdges_writeBitOps d b k hl,
      ih _ (writeBitOps_after_scl l bit)]
    rfl

theorem conditions_writeBitsOps {l : Lines} (hl : l.scl = .assertedLow) (bits : List Bool) :
    conditions Held.none l (eventsOf d b k (writeBitsOps bits)) = [] := by
  induction bits generalizing l k with
  | nil => rfl
  | cons bit bits ih =>
    rw [writeBitsOps_cons, conditions_eventsOf_append, conditions_writeBitOps d b k hl,
      ih _ (writeBitOps_after_scl l bit)]
    rfl

/-! `WRITE_BYTE`: the eight bits, then the acknowledge. -/

/-- Nine edges, with SDA at the bits and then released (R105). -/
theorem sdaAtEdges_writeByteOps {l : Lines} (hl : l.scl = .assertedLow) (v : Byte) :
    sdaAtEdges l (eventsOf d b k (writeByteOps v)) =
      (wireBits v).map lineOfBit ++ [.released] := by
  rw [writeByteOps_eq_bits, sdaAtEdges_eventsOf_append, sdaAtEdges_writeBitsOps d b k hl,
    sdaAtEdges_ackCaptureOps d b _ (writeBitsOps_after_scl hl _)]

theorem conditions_writeByteOps {l : Lines} (hl : l.scl = .assertedLow) (v : Byte) :
    conditions Held.none l (eventsOf d b k (writeByteOps v)) = [] := by
  rw [writeByteOps_eq_bits, conditions_eventsOf_append, conditions_writeBitsOps d b k hl,
    conditions_ackCaptureOps d b _ (writeBitsOps_after_scl hl _), List.append_nil]

theorem totalDelay_writeByteOps (v : Byte) :
    totalDelay (eventsOf d b k (writeByteOps v)) = 27 * d := by
  have hdelay := totalDelay_eventsOf d b k (writeByteOps v)
  rw [writeByteOps_samples, writeByteOps_length] at hdelay
  omega

/-- The bits and the first half of the acknowledge pulse: all nine edges (R105). -/
theorem risingEdges_before_ackSample {l : Lines} (hl : l.scl = .assertedLow) (v : Byte) :
    risingEdges l
      (eventsOf d b k (writeBitsOps (wireBits v) ++ [.releaseData, .releaseClock])) = 9 := by
  have hpulse : ∀ {l : Lines}, l.scl = .assertedLow → ∀ j,
      sdaAtEdges l (eventsOf d b j [.releaseData, .releaseClock]) = [.released] := by
    rintro ⟨scl, sda⟩ hl j
    cases hl
    rfl
  rw [risingEdges, sdaAtEdges_eventsOf_append, sdaAtEdges_writeBitsOps d b k hl,
    hpulse (writeBitsOps_after_scl hl _)]
  rfl

end bits

/-- Settles O29: the edges and the conditions of the eight bits and of the acknowledge; the sample
stands between the two halves of the ninth pulse. -/
theorem writeByteOnTheWire : Obligations.WriteByteOnTheWire := by
  intro l d b v hl
  refine ⟨writeByteOps_length v, rfl, rfl, rfl, sdaAtEdges_writeByteOps d b 0 hl v,
    writeByteOps_after l v, conditions_writeByteOps d b 0 hl v, totalDelay_writeByteOps d b 0 v,
    writeBitsOps (wireBits v) ++ [.releaseData, .releaseClock], ?_, ?_,
    risingEdges_before_ackSample d b 0 hl v⟩
  · rw [writeByteOps_eq_bits, List.append_assoc]
    rfl
  · rw [samplesIn_append, samplesIn_writeBitsOps]
    rfl

/-! Clock phases. -/

section phases

variable (d : Nat) (b : Nat → Bool) (k : Nat)

theorem addPhase_cons_same (st : LineState) (t t' : Nat) (ps : List (LineState × Nat)) :
    addPhase st t ((st, t') :: ps) = (st, t + t') :: ps :=
  if_pos rfl

/-- A sent bit: SDA is set with SCL still asserted, for `d`, then SCL is HIGH for `d` and LOW again
for `d` and for what follows (R110). -/
theorem sclPhases_writeBitOps_append {l : Lines} (hl : l.scl = .assertedLow) (bit : Bool)
    (ops : List LineOp) :
    sclPhases l (eventsOf d b k (writeBitOps bit ++ ops)) =
      addPhase .assertedLow d (addPhase .released d (addPhase .assertedLow d
        (sclPhases (l.afterOps (writeBitOps bit)) (eventsOf d b k ops)))) := by
  obtain ⟨scl, sda⟩ := l
  cases hl
  cases bit <;> rfl

/-- A received bit: SCL is HIGH for `d`, then LOW for `d` and for what follows (R111). -/
theorem sclPhases_readBitOps_append (l : Lines) (ops : List LineOp) :
    sclPhases l (eventsOf d b k (readBitOps ++ ops)) =
      addPhase .released d (addPhase .assertedLow d
        (sclPhases (l.afterOps readBitOps) (eventsOf d b (k + 1) ops))) :=
  rfl

/-- The `d` in which a bit is set is LOW time of the pulse before: each LOW between two pulses of a
sent frame is `2 * d` (R110). -/
theorem sclPhases_sentBits {l : Lines} (hl : l.scl = .assertedLow) (bits : List Bool) :
    sclPhases l (eventsOf d b k (writeBitsOps bits ++ ackCaptureOps)) =
      (.assertedLow, d) ::
        ((List.replicate bits.length [(.released, d), (.assertedLow, 2 * d)]).flatten ++
          [(.released, d), (.assertedLow, d)]) := by
  induction bits generalizing l with
  | nil =>
    obtain ⟨scl, sda⟩ := l
    cases hl
    rfl
  | cons bit bits ih =>
    rw [writeBitsOps_cons, List.append_assoc, sclPhases_writeBitOps_append d b k hl,
      ih (writeBitOps_after_scl l bit), addPhase_cons_same, ← Nat.two_mul]
    rfl

/-- Received bits and the master's acknowledge: the data op before its pulse adds a `d` to the LOW
of the last bit (R111). -/
theorem sclPhases_receivedBits (l : Lines) (n : Nat) (ack : Bool) :
    sclPhases l (eventsOf d b k ((List.replicate (n + 1) readBitOps).flatten ++ writeBitOps ack)) =
      (.released, d) :: ((List.replicate n [(.assertedLow, d), (.released, d)]).flatten ++
        [(.assertedLow, 2 * d), (.released, d), (.assertedLow, d)]) := by
  induction n generalizing l k with
  | zero =>
    have hack : sclPhases (l.afterOps readBitOps) (eventsOf d b (k + 1) (writeBitOps ack)) =
        [(.assertedLow, d), (.released, d), (.assertedLow, d)] := by
      cases ack <;> rfl
    rw [List.replicate_one, List.flatten_singleton, sclPhases_readBitOps_append, hack,
      addPhase_cons_same, ← Nat.two_mul]
    rfl
  | succ n ih =>
    rw [List.replicate_succ, List.flatten_cons, List.append_assoc, sclPhases_readBitOps_append, ih]
    rfl

/-- `READ_BYTE` and the master's acknowledge: SDA is released before the first pulse, in a LOW of
`d`. -/
theorem sclPhases_readByte {l : Lines} (hl : l.scl = .assertedLow) (ack : Bool) :
    sclPhases l (eventsOf d b k (readByteOps ++ writeBitOps ack)) =
      (.assertedLow, d) ::
        ((List.replicate 7 [(.released, d), (.assertedLow, d)]).flatten ++
          [(.released, d), (.assertedLow, 2 * d), (.released, d), (.assertedLow, d)]) := by
  have hrelease : sclPhases l (eventsOf d b k (readByteOps ++ writeBitOps ack)) =
      addPhase l.scl d (sclPhases ⟨l.scl, .released⟩
        (eventsOf d b k ((List.replicate 8 readBitOps).flatten ++ writeBitOps ack))) := rfl
  rw [hrelease, hl, sclPhases_receivedBits]
  rfl

end phases

/-- Settles O30: the phases of eight sent bits and the acknowledge, and of eight received bits and
a sent bit, whatever it is. -/
theorem clockPhases : Obligations.ClockPhases := by
  intro l d b v hl
  refine ⟨sclPhases_sentBits d b 0 hl (wireBits v), sclPhases_readByte d b 0 hl false, ?_⟩
  rw [sendNackOps_eq_writeBitOps, sendAckOps_eq_writeBitOps, sclPhases_readByte d b 0 hl,
    sclPhases_readByte d b 0 hl]

/-! `READ_BYTE`. -/

/-- `READ_BYTE` leaves its eight samples in `rx` (R106). -/
theorem perform_readByteOps_rx (s : State) : (perform readByteOps s).rx = upcomingByte s := by
  rw [perform_eq _ _ (readByteOps_valid _)]
  exact readByteOps_byte s s.rx

/-- The byte of eight samples as a number: sample `k` weighs 2 to the 7 - `k` (R106). -/
theorem toNat_upcomingByte (s : State) :
    (upcomingByte s).toNat =
      ((List.range 8).map fun k => (upcomingBit s k).toNat * 2 ^ (7 - k)).sum := by
  rw [upcomingByte, BitVec.toNat_ofFnLE]
  simp [Nat.ofBits_succ, List.range_succ]
  omega

/-- Settles O31: `rx` is the byte of the coming samples, the rest is the closed form of line ops. -/
theorem readByteAssembles : Obligations.ReadByteAssembles := by
  intro s
  have hperform := perform_eq readByteOps s (readByteOps_valid _)
  refine ⟨fun k hk => ?_, ?_, ?_, ?_, ?_, rfl, rfl, sampleCount_eventsOf .., ?_⟩
  · rw [perform_readByteOps_rx, getLsbD_upcomingByte s hk, upcomingBit, levelBit_eq_decide]
  · rw [perform_readByteOps_rx, toNat_upcomingByte]
  · rw [hperform, readByteOps_after]
  · rw [hperform, readByteOps_after]
  · rw [hperform]
    rfl
  · exact totalDelay_eventsFrom s readByteOps 17 rfl

/-! Samples. -/

/-- A response takes no sample. -/
theorem samplesValid_append_response (l : Lines) (es : List Event) (v : Byte) (err : Bool) :
    samplesValid l (es ++ [.response v err]) = samplesValid l es := by
  induction es generalizing l with
  | nil => rfl
  | cons e es ih =>
    cases e with
    | op lop t => exact ih _
    | sample bit => exact congrArg (_ && ·) (ih l)
    | response w e => exact ih l

/-- Settles O32: the events of a command are those of its line ops, none of which samples while SDA
is asserted, and its response. -/
theorem samplesAreValid : Obligations.SamplesAreValid := by
  intro i s t hi ht
  rw [exec_eq_leaves hi] at ht
  cases ht
  refine ⟨_, leaves_trace .., ?_⟩
  rw [addedEvents, samplesValid_append_response, eventsFrom, samplesValid_eventsOf,
    opsValid_commandOps]

end Sys2Proof
end

section
/-! PROOFS. The host commands one by one (43_commands.md): the state each leaves from every state,
its response by the samples, what the bus sees of it and what it costs (R113 to R126), and that
every instruction completes (R112, R168). -/

namespace Sys2Proof

open Machine

/-! The address byte. -/

/-- Settles O33: the direction bit stands below the seven address bits. -/
theorem addressByte : Obligations.AddressByte := by
  intro a rw
  have hrw : (BitVec.ofBool rw).toNat = rw.toNat := by cases rw <;> rfl
  refine ⟨?_, ?_⟩
  · rw [addrByte, BitVec.toNat_append, hrw, ← Nat.shiftLeft_add_eq_or_of_lt rw.toNat_lt,
      Nat.shiftLeft_eq]
    omega
  · rw [addrByte, BitVec.append_def, BitVec.shiftLeftZeroExtend_eq, BitVec.setWidth'_eq]

/-! The closed form of a command, with its line ops written out. -/

/-- The bit of a frame's one sample: 0 for LOW, 1 for HIGH (R117, R119). -/
theorem ackResponse_shiftIn_bit (v : Byte) (b : Bool) :
    ackResponse (shiftIn v b) = if b then 0x01#8 else 0x00#8 := by
  rw [ackResponse, ackBit_shiftIn]
  cases b <;> rfl

theorem requestResponse_shiftIn_bit (q v : Byte) (b : Bool) :
    requestResponse q (shiftIn v b) = if b then 0x00#8 else q := by
  rw [requestResponse, ackBit_shiftIn]

/-- A command by the line ops it performs, the lines they leave, the Transaction State it leaves and
its response. -/
theorem exec_eq_commandResult {i : Instr} {s : State} {ops : List LineOp} {scl sda : LineState}
    {n v : Byte} {p : Bool} (hi : i.hostIssuable = true)
    (hops : commandOps i s.pendingByteCount s.stopOnCompletion = ops)
    (hlines : (linesOf s).afterOps ops = ⟨scl, sda⟩)
    (hcount : countAfter i s.pendingByteCount = n) (hstop : stopAfter i s.stopOnCompletion = p)
    (hresponse : commandResponse i s.pendingByteCount (rxOf (upcomingBit s) 0 s.rx ops) = v) :
    exec i s = .next (commandResult ops scl sda n p v s) := by
  rw [exec_eq_leaves hi, performed_rx, hops, hresponse, leaves, hops, hlines, hcount, hstop]

/-- The conditions of `START` and a byte: those of `START` (R92, R105). -/
theorem conditions_addressOps (l : Lines) (d : Nat) (b : Nat → Bool) (k : Nat) (a : Addr)
    (rw : Bool) :
    conditions Held.none l (eventsOf d b k (addressOps a rw)) =
      if l.sda = .assertedLow then [.stop, .start] else [.start] := by
  rw [addressOps, conditions_eventsOf_append, conditions_startOps,
    conditions_writeByteOps _ _ _ (by rw [startOps_after]), List.append_nil]

theorem afterOps_addressOps (l : Lines) (a : Addr) (rw : Bool) :
    l.afterOps (addressOps a rw) = ⟨.assertedLow, .released⟩ := by
  rw [addressOps, afterOps_append, writeByteOps_after]

/-- What the address frame costs (R118). -/
theorem totalDelay_addressOps (s : State) (a : Addr) (rw : Bool) :
    totalDelay (eventsFrom s (addressOps a rw)) = 31 * s.cfg.bitDelayMicros :=
  totalDelay_eventsFrom s (addressOps a rw) 31 (by simp [addressOps])

theorem sampleCount_addressOps (s : State) (a : Addr) (rw : Bool) :
    sampleCount (eventsFrom s (addressOps a rw)) = 1 :=
  (sampleCount_eventsOf ..).trans (by simp [addressOps])

/-! `BEGIN` and `END`. -/

/-- Settles O34: the closed form with the two line ops of `RELEASE_BOTH`. -/
theorem beginEndResult : Obligations.BeginEndResult := fun s =>
  ⟨exec_eq_commandResult rfl rfl (releaseBothOps_after _) rfl rfl rfl, rfl,
    conditions_releaseBothOps (linesOf s) _ _ 0, totalDelay_eventsFrom s releaseBothOps 2 rfl⟩

/-! The write commands. -/

/-- Settles O36: the closed form with the one sample of the address frame, and the conditions of its
START. -/
theorem beginTxResult : Obligations.BeginTxResult := by
  intro a s
  obtain ⟨-, -, hword, -⟩ := commandWordFormulas
  rw [show startOps ++ writeByteOps (a ++ 0#1) = addressOps a false from rfl]
  refine ⟨exec_eq_commandResult rfl rfl (afterOps_addressOps _ a false) rfl rfl ?_,
    conditions_addressOps (linesOf s) _ _ 0 a false, length_addressOps a false,
    totalDelay_addressOps s a false, sampleCount_addressOps s a false, hword a⟩
  rw [commandResponse, rxOf_addressOps, ackResponse_shiftIn_bit]

/-- Settles O37: the closed form with the one sample of the byte. -/
theorem writeResult : Obligations.WriteResult := by
  intro b s
  obtain ⟨-, -, -, hword, -⟩ := commandWordFormulas
  refine ⟨exec_eq_commandResult rfl rfl (writeByteOps_after _ b) rfl rfl ?_,
    writeByteOps_length b, totalDelay_writeByteOps _ _ 0 b,
    (sampleCount_eventsOf ..).trans (writeByteOps_samples b), hword b⟩
  rw [commandResponse, writeByteOps_rx, ackResponse_shiftIn_bit]

/-- `WRITE_BYTE` as its first bit and the rest of the frame. -/
theorem writeByteOps_eq_firstBit (v : Byte) :
    writeByteOps v = writeBitOps (v.getLsbD 7) ++
      (writeBitsOps (wireBits v).tail ++ ackCaptureOps) := rfl

section idle

variable (d : Nat) (b : Nat → Bool) (k : Nat)

/-- On an idle bus a bit's data operation is a START if it drives SDA low (R121). -/
theorem conditions_dataOp_of_idle (bit : Bool) :
    conditions Held.none ⟨.released, .released⟩ (eventsOf d b k [dataOp bit]) =
      if bit then [] else [.start] := by
  cases bit <;> rfl

/-- The clock pulse after the data operation makes no condition. -/
theorem conditions_writeBitOps_of_idle (bit : Bool) :
    conditions Held.none ⟨.released, .released⟩ (eventsOf d b k (writeBitOps bit)) =
      if bit then [] else [.start] := by
  cases bit <;> rfl

end idle

/-- Settles O38: the first bit is sent with SCL released; after its clock pulse SCL is asserted, and
the rest of the frame makes no condition. -/
theorem writeOnIdleBus : Obligations.WriteOnIdleBus := by
  intro v s hscl hsda
  have hidle : linesOf s = ⟨.released, .released⟩ := by rw [linesOf, hscl, hsda]
  have hfirst : (eventsFrom s (writeByteOps v)).take 1 = eventsFrom s [dataOp (v.getLsbD 7)] := by
    rw [writeByteOps_eq_firstBit]
    cases v.getLsbD 7 <;> rfl
  constructor
  · have hclock := writeBitOps_after_scl ⟨.released, .released⟩ (v.getLsbD 7)
    rw [hidle, eventsFrom, writeByteOps_eq_firstBit, conditions_eventsOf_append,
      conditions_writeBitOps_of_idle, conditions_eventsOf_append,
      conditions_writeBitsOps _ _ _ hclock,
      conditions_ackCaptureOps _ _ _ (writeBitsOps_after_scl hclock _), List.append_nil,
      List.append_nil]
  · rw [hfirst, hidle, eventsFrom, conditions_dataOp_of_idle]

/-- Settles O39: the closed form with the line ops of STOP, and with none. -/
theorem endTxResult : Obligations.EndTxResult := fun s =>
  ⟨exec_eq_commandResult rfl rfl (stopOps_after _) rfl rfl rfl,
    exec_eq_commandResult rfl rfl rfl rfl rfl rfl,
    conditions_stopOps (linesOf s) _ _ 0, totalDelay_eventsFrom s stopOps 3 rfl, rfl, rfl⟩

/-! The read commands. -/

/-- Settles O40: the closed form with the one sample of the address frame, and the conditions of its
START. -/
theorem requestFromResult : Obligations.RequestFromResult := by
  intro a q p s
  obtain ⟨-, -, -, -, -, hword, -⟩ := commandWordFormulas
  rw [show startOps ++ writeByteOps (a ++ 1#1) = addressOps a true from rfl]
  refine ⟨exec_eq_commandResult rfl rfl (afterOps_addressOps _ a true) rfl rfl ?_,
    conditions_addressOps (linesOf s) _ _ 0 a true, length_addressOps a true,
    totalDelay_addressOps s a true, sampleCount_addressOps s a true, hword a q p⟩
  rw [commandResponse, rxOf_addressOps, requestResponse_shiftIn_bit]

/-- `READ` with nothing pending: the sentinel, and nothing else (R124). -/
theorem exec_read_of_nothing_pending {s : State} (h : s.pendingByteCount = 0x00#8) :
    exec .read s = .next
      (commandResult [] s.scl s.sda 0x00#8 s.stopOnCompletion 0xFF#8 s) :=
  exec_eq_commandResult rfl (commandOps_read_of_nothing_pending h) rfl ((if_pos h).trans h) rfl
    (if_pos h)

/-- `READ` with bytes pending: `READ_BYTE`, and what the count left and the stop bit ask for
(R124). -/
theorem exec_read_of_pending {s : State} {tail : List LineOp} {scl sda : LineState}
    (h : s.pendingByteCount ≠ 0x00#8)
    (htail : readTailOps (s.pendingByteCount - 1#8) s.stopOnCompletion = tail)
    (hlines : (Lines.mk .assertedLow .released).afterOps tail = ⟨scl, sda⟩) :
    exec .read s = .next (commandResult (readByteOps ++ tail) scl sda (s.pendingByteCount - 1#8)
      s.stopOnCompletion (upcomingByte s) s) := by
  refine exec_eq_commandResult rfl ?_ ?_ (if_neg h) rfl ((if_neg h).trans ?_)
  · rw [commandOps_read_of_pending h, htail]
  · rw [afterOps_append, readByteOps_after, hlines]
  · rw [rxOf_append, ← htail, rxOf_readTailOps, readByteOps_byte]

/-- Settles O42: the four paths by the count and the stop bit. -/
theorem readResult : Obligations.ReadResult := by
  intro s
  refine ⟨rfl, exec_read_of_nothing_pending, fun h => ?_, fun h hstop => ?_, fun h hstop => ?_,
    rfl, rfl, rfl, totalDelay_eventsFrom s _ 20 rfl, totalDelay_eventsFrom s _ 20 rfl,
    totalDelay_eventsFrom s _ 23 rfl⟩
  · have hleft : s.pendingByteCount - 1#8 ≠ 0x00#8 := by bv_omega
    exact exec_read_of_pending (by bv_omega) (readTailOps_of_ne hleft _) (sendAckOps_after _)
  · have hread := exec_read_of_pending (s := s) (tail := sendNackOps) (by simp [h])
      (by rw [h, hstop]; rfl) (sendNackOps_after _)
    rwa [h, hstop] at hread
  · have hread := exec_read_of_pending (s := s) (tail := sendNackOps ++ stopOps) (by simp [h])
      (by rw [h, hstop]; rfl) (by rw [afterOps_append, stopOps_after])
    rwa [h, hstop, ← List.append_assoc] at hread

/-- Settles O43: a stored quantity of 0 is both responses of the request, and leaves nothing pending
for the `READ`. -/
theorem zeroQuantityRead : Obligations.ZeroQuantityRead := by
  intro a p s t u ht hu
  obtain ⟨hrequest, -⟩ := requestFromResult a 0 p s
  rw [hrequest] at ht
  cases ht
  rw [exec_read_of_nothing_pending rfl] at hu
  cases hu
  refine ⟨ite_self _, rfl, rfl, rfl, List.append_nil _, ?_⟩
  simp [commandResult, eventsOf]

/-! Every instruction. -/

/-- Settles O51: a line op is one line op; the closed form of a command has at most 32 and ends with
the response. -/
theorem everyInstructionCompletes : Obligations.EveryInstructionCompletes := by
  intro i s
  cases hi : i.hostIssuable with
  | false =>
    obtain ⟨op, rfl⟩ := exists_eq_instrOfLineOp hi
    exact ⟨_, exec_instrOfLineOp op s, nofun⟩
  | true =>
    refine ⟨_, exec_eq_leaves hi s, fun _ => ⟨rfl, rfl, rfl, _, rfl, ?_⟩⟩
    rw [opsOf_eventsOf]
    exact length_commandOps_le ..

end Sys2Proof
end

section
/-! PROOFS. Programs of host commands, run word by word from a ready engine (R69): the line ops of a
program, the conditions they make, and the three kinds of program of 43_commands.md: `BEGIN` and
`END` in any order (R115), a read transaction (R127) and a write transaction (R128). -/

namespace Sys2Proof

open Machine

/-! One word of a program. -/

theorem hostIssuable_of_encodeCommand {i : Instr} {w : CmdWord} (h : encodeCommand i = some w) :
    i.hostIssuable = true := by
  obtain ⟨hi, -⟩ | ⟨-, hnone, -⟩ := rowMatch i
  · exact hi
  · rw [hnone] at h
    cases h

/-- The response of a command run in the state `s` (R66). -/
def responseOf (i : Instr) (s : State) : Byte :=
  commandResponse i s.pendingByteCount (performed i s).rx

/-- The state right after the acceptance of the word `w`, the words `ws` still to come (R69). -/
def accepted (w : CmdWord) (ws : List CmdWord) (s : State) : State :=
  accept w (issuing (hostProgram ws) s)

/-- The state after the word `w` of the command `i`, the words `ws` still to come. -/
def completed (i : Instr) (w : CmdWord) (ws : List CmdWord) (s : State) : State :=
  leaves i (responseOf i (accepted w ws s)) (accepted w ws s)

theorem run_succ_of_step {M : Host.Core} {s t : M.State} (h : M.step s = .next t) (n : Nat) :
    M.run (n + 1) s = M.run n t := by
  rw [Host.Core.run, h]

section word

variable {i : Instr} {w : CmdWord} {ws : List CmdWord} {s : State}

theorem ready_completed (hs : Ready s) : Ready (completed i w ws s) := ⟨hs.1, rfl⟩

/-- A ready engine runs the first word of a program in its first step (R46, R69). -/
theorem run_succ_of_word (hs : Ready s) (hw : encodeCommand i = some w)
    (hhost : s.hostIn = hostProgram (w :: ws)) (n : Nat) :
    Host.Core.run core (n + 1) s = Host.Core.run core n (completed i w ws s) :=
  run_succ_of_step ((stepRunsDecodedCommand s w _ i hs hhost
    (decodeCommand_of_encodeCommand hw)).trans
      (exec_eq_leaves (hostIssuable_of_encodeCommand hw) _)) n

end word

/-! A program. -/

/-- The line ops of a program, by the count and the stop bit it starts with. -/
def programOps : List Instr → Byte → Bool → List LineOp
  | [], _, _ => []
  | i :: is, n, p => commandOps i n p ++ programOps is (countAfter i n) (stopAfter i p)

/-- The count a program leaves (R22). -/
def countAfterProgram (is : List Instr) (n : Byte) : Byte := is.foldl (fun n i => countAfter i n) n

/-- The stop bit a program leaves (R23). -/
def stopAfterProgram (is : List Instr) (p : Bool) : Bool := is.foldl (fun p i => stopAfter i p) p

theorem programOps_append (xs ys : List Instr) (n : Byte) (p : Bool) :
    programOps (xs ++ ys) n p =
      programOps xs n p ++ programOps ys (countAfterProgram xs n) (stopAfterProgram xs p) := by
  induction xs generalizing n p with
  | nil => rfl
  | cons i xs ih =>
    rw [List.cons_append, programOps, programOps, ih, List.append_assoc]
    rfl

/-- Every setter of a stretch takes the delay `d`, and a sample none (R75, R80). -/
def SettersTake (d : Nat) (evs : List Event) : Prop :=
  totalDelay evs + samplesIn (opsOf evs) * d = (opsOf evs).length * d

theorem settersTake_addedEvents (i : Instr) (v : Byte) (s : State) :
    SettersTake s.cfg.bitDelayMicros (addedEvents i v s) := by
  rw [SettersTake, opsOf_addedEvents, addedEvents, totalDelay_append]
  exact totalDelay_eventsOf ..

theorem SettersTake.append {d : Nat} {xs ys : List Event} (hx : SettersTake d xs)
    (hy : SettersTake d ys) : SettersTake d (xs ++ ys) := by
  unfold SettersTake at *
  rw [opsOf_append, totalDelay_append, samplesIn_append, List.length_append, Nat.add_mul,
    Nat.add_mul]
  omega

/-- What the program `is` has done when it leads from the state `s` to the state `t` with the events
`evs`: all of its words are taken, and the line ops are its own. -/
structure ProgramRan (is : List Instr) (s t : State) (evs : List Event) : Prop where
  hostIn : t.hostIn = []
  trace : t.trace = s.trace ++ evs
  ops : opsOf evs = programOps is s.pendingByteCount s.stopOnCompletion
  delay : SettersTake s.cfg.bitDelayMicros evs
  lines : linesOf t = (linesOf s).afterOps (opsOf evs)
  count : t.pendingByteCount = countAfterProgram is s.pendingByteCount
  stop : t.stopOnCompletion = stopAfterProgram is s.stopOnCompletion

/-- A word before a program that has run. -/
theorem ProgramRan.cons {is : List Instr} {s t : State} {evs : List Event} (i : Instr) (w : CmdWord)
    (ws : List CmdWord) (h : ProgramRan is (completed i w ws s) t evs) :
    ProgramRan (i :: is) s t
      (addedEvents i (responseOf i (accepted w ws s)) (accepted w ws s) ++ evs) := by
  obtain ⟨hhost, htrace, hops, hdelay, hlines, hcount, hstop⟩ := h
  have hadded := opsOf_addedEvents i (responseOf i (accepted w ws s)) (accepted w ws s)
  refine ⟨hhost, ?_, ?_, (settersTake_addedEvents ..).append hdelay, ?_, hcount, hstop⟩
  · rw [htrace, completed, leaves_trace, List.append_assoc]
    rfl
  · rw [opsOf_append, hadded, hops]
    rfl
  · rw [opsOf_append, afterOps_append, hlines, hadded]
    rfl

/-- A ready engine runs the words of a program one a step, to the end. -/
theorem run_program {is : List Instr} {ws : List CmdWord} {s : State} (hs : Ready s)
    (hws : is.map encodeCommand = ws.map some) (hhost : s.hostIn = hostProgram ws) :
    ∃ t evs, Host.Core.run core is.length s = .next t ∧ ProgramRan is s t evs := by
  induction is generalizing ws s with
  | nil =>
    obtain rfl : ws = [] := List.map_eq_nil_iff.mp hws.symm
    exact ⟨s, [], rfl, hhost, (List.append_nil _).symm, rfl,
      by simp [SettersTake, totalDelay, opsOf, samplesIn], rfl, rfl, rfl⟩
  | cons i is ih =>
    cases ws with
    | nil => cases hws
    | cons w ws =>
      obtain ⟨hw, hrest⟩ := List.cons.inj hws
      obtain ⟨t, evs, hrun, hran⟩ := ih (s := completed i w ws s) (ready_completed hs) hrest rfl
      exact ⟨t, _, (run_succ_of_word hs hw hhost _).trans hrun, hran.cons i w ws⟩

/-! Conditions of a transaction. -/

/-- The conditions of a stretch are those of its line ops: a response and the value of a sample make
none (R18). -/
theorem conditions_eq_of_ops (h : Held) (l : Lines) (evs : List Event) (d : Nat) (b : Nat → Bool)
    (k : Nat) : conditions h l evs = conditions h l (eventsOf d b k (opsOf evs)) := by
  induction evs generalizing l k with
  | nil => rfl
  | cons e evs ih =>
    cases e with
    | op lop t => cases lop <;> exact congrArg (_ ++ ·) (ih _ _)
    | sample bit => exact congrArg (_ ++ ·) (ih l (k + 1))
    | response v err => exact (congrArg (· ++ _) (conditionOf_scl h l l.scl)).trans (ih l k)

/-- Line ops inside a transaction: entered with SCL asserted they make no condition and leave SCL
asserted. -/
def InFrame (ops : List LineOp) : Prop :=
  ∀ l : Lines, l.scl = .assertedLow →
    (∀ d b k, conditions Held.none l (eventsOf d b k ops) = []) ∧
      (l.afterOps ops).scl = .assertedLow

theorem InFrame.append {xs ys : List LineOp} (hx : InFrame xs) (hy : InFrame ys) :
    InFrame (xs ++ ys) := by
  intro l hl
  obtain ⟨hxc, hxl⟩ := hx l hl
  obtain ⟨hyc, hyl⟩ := hy _ hxl
  refine ⟨fun d b k => ?_, by rwa [afterOps_append]⟩
  rw [conditions_eventsOf_append, hxc, hyc, List.append_nil]

theorem InFrame.flatten {parts : List (List LineOp)} (h : ∀ ops ∈ parts, InFrame ops) :
    InFrame parts.flatten := by
  induction parts with
  | nil => exact fun l hl => ⟨fun _ _ _ => rfl, hl⟩
  | cons ops parts ih =>
    obtain ⟨hfirst, hrest⟩ := List.forall_mem_cons.mp h
    exact hfirst.append (ih hrest)

theorem inFrame_writeBitOps (bit : Bool) : InFrame (writeBitOps bit) := fun l hl =>
  ⟨fun d b k => conditions_writeBitOps d b k hl bit, writeBitOps_after_scl l bit⟩

theorem inFrame_writeByteOps (v : Byte) : InFrame (writeByteOps v) := fun _ hl =>
  ⟨fun d b k => conditions_writeByteOps d b k hl v, by rw [writeByteOps_after]⟩

/-- `READ_BYTE` releases SDA with SCL asserted and then only clocks. -/
theorem inFrame_readByteOps : InFrame readByteOps := by
  rintro ⟨scl, sda⟩ hl
  cases hl
  refine ⟨fun d b k => ?_, by rw [readByteOps_after]⟩
  cases sda <;> rfl

/-- A transaction: the conditions of its START, none in between, and a STOP at the end if it has one
(R127, R128). -/
theorem conditions_transaction {ops : List LineOp} {evs : List Event} {stop : Bool}
    (h : InFrame ops) (hevs : opsOf evs = startOps ++ ops ++ endTxOps stop) (l : Lines) :
    conditions Held.none l evs =
      (if l.sda = .assertedLow then [.stop, .start] else [.start]) ++
        if stop then [.stop] else [] := by
  obtain ⟨hconditions, hclock⟩ := h (l.afterOps startOps) rfl
  rw [conditions_eq_of_ops _ _ _ 0 (fun _ => false) 0, hevs, conditions_eventsOf_append,
    conditions_eventsOf_append, conditions_startOps, hconditions, List.append_nil, afterOps_append]
  cases stop with
  | false => rfl
  | true =>
    have hparked : (l.afterOps startOps).afterOps ops ≠ ⟨.released, .released⟩ := fun hidle => by
      rw [hidle] at hclock
      cases hclock
    rw [endTxOps, if_pos rfl, conditions_stopOps, if_neg hparked, if_pos rfl]

/-! `BEGIN` and `END` in any order. -/

/-- Words that are each the word of a command with a property are the words of a program of such
commands. -/
theorem exists_program {P : Instr → Prop} {ws : List CmdWord}
    (h : ∀ w ∈ ws, ∃ i, P i ∧ encodeCommand i = some w) :
    ∃ is : List Instr, (∀ i ∈ is, P i) ∧ is.map encodeCommand = ws.map some := by
  induction ws with
  | nil => exact ⟨[], nofun, rfl⟩
  | cons w ws ih =>
    obtain ⟨⟨i, hi, hw⟩, hrest⟩ := List.forall_mem_cons.mp h
    obtain ⟨is, his, hws⟩ := ih hrest
    exact ⟨i :: is, List.forall_mem_cons.mpr ⟨hi, his⟩, congrArg₂ List.cons hw hws⟩

/-- A program of `BEGIN` and `END` only: `RELEASE_BOTH` for each, and no change of the Transaction
State (R113, R114). -/
theorem programEffect_beginEnd {is : List Instr} (h : ∀ i ∈ is, i = .cmdBegin ∨ i = .cmdEnd)
    (n : Byte) (p : Bool) :
    programOps is n p = (List.replicate is.length releaseBothOps).flatten ∧
      countAfterProgram is n = n ∧ stopAfterProgram is p = p := by
  induction is with
  | nil => exact ⟨rfl, rfl, rfl⟩
  | cons i is ih =>
    obtain ⟨hi, hrest⟩ := List.forall_mem_cons.mp h
    obtain ⟨hops, hcount, hstop⟩ := ih hrest
    obtain rfl | rfl := hi <;>
      exact ⟨congrArg (releaseBothOps ++ ·) hops, hcount, hstop⟩

theorem samplesIn_replicate_releaseBothOps (n : Nat) :
    samplesIn (List.replicate n releaseBothOps).flatten = 0 := by
  induction n with
  | zero => rfl
  | succ n ih => exact ih

/-- The last `RELEASE_BOTH` leaves both lines released. -/
theorem afterOps_replicate_releaseBothOps (l : Lines) {n : Nat} (hn : n ≠ 0) :
    l.afterOps (List.replicate n releaseBothOps).flatten = ⟨.released, .released⟩ := by
  obtain ⟨n, rfl⟩ := Nat.exists_eq_succ_of_ne_zero hn
  rw [List.replicate_succ', List.flatten_concat, afterOps_append, releaseBothOps_after]

/-- Settles O35: a program of `BEGIN` and `END` is `RELEASE_BOTH` for each of its words; on released
lines its two line ops change nothing. -/
theorem beginEndIdempotent : Obligations.BeginEndIdempotent := by
  constructor
  · intro s ws hs hne hwords hhost
    obtain ⟨is, his, hws⟩ := exists_program (P := fun i => i = .cmdBegin ∨ i = .cmdEnd)
      fun w hw => (hwords w hw).elim (fun h => ⟨.cmdBegin, .inl rfl, h ▸ rfl⟩)
        fun h => ⟨.cmdEnd, .inr rfl, h ▸ rfl⟩
    have hlength : is.length = ws.length := by simpa using congrArg List.length hws
    obtain ⟨hops, hcount, hstop⟩ := programEffect_beginEnd his s.pendingByteCount s.stopOnCompletion
    obtain ⟨t, evs, hrun, hran⟩ := run_program hs hws hhost
    have hevs := hran.ops.trans hops
    have hlines := hran.lines
    have hdelay := hran.delay
    rw [hevs, afterOps_replicate_releaseBothOps _ (by simpa [hlength] using hne)] at hlines
    rw [SettersTake, hevs, samplesIn_replicate_releaseBothOps, Nat.zero_mul, Nat.add_zero] at hdelay
    have htwo : (List.replicate is.length releaseBothOps).flatten.length = 2 * ws.length := by
      simp [hlength, Nat.mul_comm]
    exact ⟨t, evs, hlength ▸ hrun, congrArg Lines.scl hlines, congrArg Lines.sda hlines,
      hran.count.trans hcount, hran.stop.trans hstop, hran.trace, by rw [hevs, htwo],
      by rw [hdelay, htwo]⟩
  · intro s t u ht hu
    obtain ⟨hfirst, -⟩ := beginEndResult s
    obtain ⟨hsecond, -, -, hdelay⟩ := beginEndResult t
    rw [hfirst] at ht
    rw [hsecond] at hu
    cases ht
    cases hu
    exact ⟨rfl, rfl, rfl, _, List.append_assoc .., rfl, rfl, hdelay⟩

/-! A write transaction. -/

theorem programOps_writes (bs : List Byte) (n : Byte) (p : Bool) :
    programOps (bs.map .write) n p = bs.flatMap writeByteOps := by
  induction bs with
  | nil => rfl
  | cons v bs ih => exact congrArg (writeByteOps v ++ ·) ih

/-- The line ops of a write transaction (R128). -/
theorem programOps_writeTransaction (a : Addr) (bs : List Byte) (p : Bool) (pending : Byte)
    (stop : Bool) :
    programOps (.beginTx a :: bs.map .write ++ [.endTx p]) pending stop =
      startOps ++ (writeByteOps (a ++ 0#1) ++ bs.flatMap writeByteOps) ++ endTxOps p := by
  rw [programOps_append, programOps, programOps_writes]
  exact congrArg₂ (· ++ ·) (List.append_assoc ..) (List.append_nil _)

/-- Settles O45: between its START and its STOP the program sends bytes, all inside the
transaction. -/
theorem writeTransaction : Obligations.WriteTransaction := by
  intro s a bs p ws hs hws hhost
  obtain ⟨t, evs, hrun, hran⟩ := run_program hs hws hhost
  have hops := hran.ops.trans (programOps_writeTransaction a bs p _ _)
  have hframe : InFrame (writeByteOps (a ++ 0#1) ++ bs.flatMap writeByteOps) :=
    (inFrame_writeByteOps _).append (InFrame.flatten
      (List.forall_mem_map.mpr fun v _ => inFrame_writeByteOps v))
  have hlength : (Instr.beginTx a :: bs.map Instr.write ++ [Instr.endTx p]).length =
      bs.length + 2 := by simp
  refine ⟨t, evs, hlength ▸ hrun, hran.trace, ?_, conditions_transaction hframe hops _, hran.hostIn⟩
  rw [hops, ← List.append_assoc]
  rfl

/-! A read transaction. -/

/-- A `READ` that is not the last (R124). -/
theorem commandOps_read_of_more {n : Byte} (h : n - 1#8 ≠ 0x00#8) (hn : n ≠ 0x00#8) (p : Bool) :
    commandOps .read n p = readByteOps ++ sendAckOps := by
  rw [commandOps_read_of_pending hn, readTailOps_of_ne h]

/-- As many `READ`s as bytes are pending: an ACK after each byte but the last, a NACK after the last
and then the STOP, if it is wanted; nothing stays pending (R124, R127). -/
theorem programEffect_reads (k : Nat) {n : Byte} (hn : n.toNat = k + 1) (p : Bool) :
    programOps (List.replicate (k + 1) .read) n p =
        (List.replicate k (readByteOps ++ sendAckOps)).flatten ++
          (readByteOps ++ (sendNackOps ++ endTxOps p)) ∧
      countAfterProgram (List.replicate (k + 1) .read) n = 0 ∧
      stopAfterProgram (List.replicate (k + 1) .read) p = p := by
  induction k generalizing n with
  | zero =>
    obtain rfl : n = 1#8 := BitVec.eq_of_toNat_eq hn
    exact ⟨List.append_nil _, rfl, rfl⟩
  | succ k ih =>
    have hpending : n ≠ 0x00#8 := by bv_omega
    have hleft : n - 1#8 ≠ 0x00#8 := by bv_omega
    obtain ⟨hops, hcount, hstop⟩ := ih (n := n - 1#8) (by bv_omega)
    have hafter := countAfter_read_of_pending hpending
    refine ⟨?_, ?_, hstop⟩
    · rw [List.replicate_succ, programOps, commandOps_read_of_more hleft hpending, hafter]
      exact (congrArg _ hops).trans (List.append_assoc ..).symm
    · rw [List.replicate_succ, countAfterProgram, List.foldl_cons, hafter]
      exact hcount

/-- What stands between the START and the end of a read of `k + 1` bytes: the address byte, the
bytes and their acknowledges (R127). -/
def readFrameOps (a : Addr) (k : Nat) : List LineOp :=
  writeByteOps (a ++ 1#1) ++ (List.replicate k (readByteOps ++ sendAckOps)).flatten ++
    (readByteOps ++ sendNackOps)

/-- The master's acknowledges are sent bits. -/
theorem inFrame_readFrameOps (a : Addr) (k : Nat) : InFrame (readFrameOps a k) := by
  have hack : InFrame (readByteOps ++ sendAckOps) :=
    inFrame_readByteOps.append (inFrame_writeBitOps false)
  have hnack : InFrame (readByteOps ++ sendNackOps) :=
    inFrame_readByteOps.append (inFrame_writeBitOps true)
  refine ((inFrame_writeByteOps _).append (InFrame.flatten fun ops hops => ?_)).append hnack
  rwa [List.eq_of_mem_replicate hops]

/-- The line ops of a request and as many `READ`s as it asks for. -/
theorem programOps_readTransaction (a : Addr) (k : Nat) {n : Byte} (hn : n.toNat = k + 1) (p : Bool)
    (pending : Byte) (stop : Bool) :
    programOps (.requestFrom a n p :: List.replicate (k + 1) .read) pending stop =
      startOps ++ readFrameOps a k ++ endTxOps p := by
  obtain ⟨hreads, -⟩ := programEffect_reads k hn p
  have hsplit : programOps (.requestFrom a n p :: List.replicate (k + 1) .read) pending stop =
      startOps ++ writeByteOps (a ++ 1#1) ++ programOps (List.replicate (k + 1) .read) n p := rfl
  rw [hsplit, hreads]
  simp only [readFrameOps, List.append_assoc]

/-- The first response of a program is that of its first command. -/
theorem find_response_addedEvents {isResponse : Event → Bool}
    (hop : ∀ lop d, isResponse (.op lop d) = false) (hsample : ∀ b, isResponse (.sample b) = false)
    (i : Instr) (v : Byte) (s : State) (evs : List Event)
    (hv : isResponse (.response v false) = true) :
    (addedEvents i v s ++ evs).find? isResponse = some (.response v false) := by
  have hnone : ∀ d b k ops, (eventsOf d b k ops).find? isResponse = none := by
    intro d b k ops
    induction ops generalizing k with
    | nil => rfl
    | cons op ops ih => cases op <;> simp [eventsOf, hop, hsample, ih]
  simp [addedEvents, eventsFrom, List.find?_append, hnone, hv]

/-- An acknowledged request answers its quantity (R123). -/
theorem responseOf_requestFrom {s : State} (h : upcoming s 0 = .low) (a : Addr) (n : Byte)
    (p : Bool) (w : CmdWord) (ws : List CmdWord) :
    responseOf (.requestFrom a n p) (accepted w ws s) = n := by
  have hlow : upcoming (accepted w ws s) 0 = .low := h
  rw [responseOf, commandResponse, performed_rx, commandOps, rxOf_addressOps,
    requestResponse_shiftIn, if_pos hlow]

/-- Settles O44: the request is the first word of the program and its response the first; the
`READ`s are `programEffect_reads`; all but the START and the STOP is inside the transaction. -/
theorem readTransaction : Obligations.ReadTransaction := by
  intro s a n p w hs hn hw hup hhost
  obtain ⟨k, hk⟩ : ∃ k, n.toNat = k + 1 := Nat.exists_eq_succ_of_ne_zero (by bv_omega)
  rw [hk] at hhost ⊢
  obtain ⟨t, evs, hrun, hran⟩ := run_program
    (s := completed (.requestFrom a n p) w (List.replicate (k + 1) 0x700000#24) s)
    (is := List.replicate (k + 1) .read) (ready_completed hs)
    (by rw [List.map_replicate, List.map_replicate]; rfl) rfl
  obtain ⟨-, hcount, hstop⟩ := programEffect_reads k hk p
  have hwhole := hran.cons (.requestFrom a n p) w (List.replicate (k + 1) 0x700000#24)
  have hzero : t.pendingByteCount = 0 := hran.count.trans hcount
  rw [responseOf_requestFrom hup] at hwhole
  have hops := hwhole.ops.trans (programOps_readTransaction a k hk p _ _)
  rw [List.length_replicate] at hrun
  refine ⟨t, _, (run_succ_of_word hs hw hhost _).trans hrun, hwhole.trace, ?_,
    conditions_transaction (inFrame_readFrameOps a k) hops _,
    find_response_addedEvents (fun _ _ => rfl) (fun _ => rfl) _ _ _ _ rfl, hzero,
    hran.stop.trans hstop, hran.hostIn, _, exec_read_of_nothing_pending hzero, rfl,
    List.append_nil _, rfl⟩
  rw [hops]
  simp only [readFrameOps, endTxOps, List.append_assoc, Nat.add_sub_cancel]

end Sys2Proof
end

section
/-! PROOFS. Reset and rest (70_reset_and_hazards.md): a reset between two steps and within a command
(R151, R153), and an idle engine with nothing presented (R157). -/

namespace Sys2Proof

open Machine

section host

variable {s : State} {w : CmdWord} {n : Nat} {rest : List HostInput}

/-! What the host's requests make of a step. -/

/-- With no code on the line driver's interface a step looks at the host's requests. -/
theorem fetch_of_atHost (hs : AtHost s) : fetch s = fetchHost s := by
  obtain ⟨hpins, hlop⟩ := hs
  simp [fetch, hpins, hlop]

theorem step_reset (hs : AtHost s) (hhost : s.hostIn = .reset :: rest) :
    step s = .next (resetEngine { s with hostIn := rest }) := by
  simp [step, fetch_of_atHost hs, fetchHost, hhost]

theorem step_commandThenReset (hs : Ready s) (hhost : s.hostIn = .commandThenReset w n :: rest) :
    step s = wordOutcome w (resetEngine (moves n (accept w { s with hostIn := rest }))) := by
  obtain ⟨hs, hbusy⟩ := hs
  simp [step, fetch_of_atHost hs, fetchHost, hhost, hbusy, fetchThenReset]

/-! Moves. -/

theorem keptByOps_hostIn (xs : List HostInput) : KeptByOps fun s => s.hostIn = xs where
  lineOp op s h := by
    obtain ⟨-, -, -, -, -, -, -, -, hhost, -⟩ := lineOp_frame op s
    exact hhost.trans h
  respond _ _ _ h := h
  storeTransaction _ _ _ h := h
  decrementPending _ h := h

theorem moves_succ_of_busy (hbusy : s.busy = true) (n : Nat) :
    moves (n + 1) s = moves n (advance s) :=
  if_pos hbusy

/-- A word that does not decode completes in the first move (R133). -/
theorem moves_illegalWord (hbusy : s.busy = true) (hw : decodeCommand s.cmd = none) :
    moves (n + 1) s = completeIllegal s := by
  have hfirst : advance s = completeIllegal s := by simp [advance, hw]
  rw [moves_succ_of_busy hbusy, hfirst, moves_of_idle rfl]

/-- An idle engine makes no move, and so is not busy after any. -/
theorem busy_of_busy_moves (hbusy : (moves n s).busy = true) : s.busy = true := by
  by_contra hidle
  rw [moves_of_idle (eq_false_of_ne_true hidle)] at hbusy
  exact hidle hbusy

/-- An engine still busy after `n` moves has performed `n` line ops in them and not responded
(R29, R153). -/
theorem moves_trace_of_busy (hbusy : (moves n s).busy = true) :
    ∃ evs, (moves n s).trace = s.trace ++ evs ∧ (opsOf evs).length = n ∧
      ∀ e ∈ evs, ∀ v err, e ≠ .response v err := by
  induction n generalizing s with
  | zero => exact ⟨[], (List.append_nil _).symm, rfl, nofun⟩
  | succ n ih =>
    have hstart := busy_of_busy_moves hbusy
    rw [moves_succ_of_busy hstart] at hbusy ⊢
    obtain ⟨-, -, e, he, hop⟩ | ⟨hidle, -⟩ := advance_progress hstart
    · obtain ⟨evs, htrace, hlen, hnone⟩ := ih hbusy
      refine ⟨e :: evs, ?_, ?_, List.forall_mem_cons.mpr ⟨?_, hnone⟩⟩
      · rw [htrace, he, List.append_assoc, List.singleton_append]
      · rw [← List.singleton_append, opsOf_append, List.length_append, hop, hlen, Nat.add_comm]
      · rintro v err rfl
        cases hop
    · exact absurd (busy_of_busy_moves hbusy) (by simp [hidle])

end host

/-! The obligations. -/

/-- Settles O18: the reset is `resetEngine` of the state after the moves, which write neither the
configuration nor the host's requests; an illegal word makes at most one move, its response. -/
theorem resetDuringCommand : Obligations.ResetDuringCommand := by
  refine ⟨fun s w n rest i hs hhost hw => ?_, fun s rest hs hhost => ?_,
    fun s w n rest hs hhost hw => ?_⟩
  · refine ⟨_, _, rfl, (step_commandThenReset hs hhost).trans (wordOutcome_legal hw _),
      rfl, rfl, rfl, rfl, rfl, rfl, rfl, rfl, rfl, rfl, rfl, ?_, ?_, moves_trace_of_busy⟩
    · exact (keptByOps_cfg s.cfg).moves n rfl
    · exact (keptByOps_hostIn rest).moves n rfl
  · have hstep := step_reset hs hhost
    obtain ⟨-, hlop⟩ := hs
    exact ⟨Config.resetCmd, 0x00#8, hstep.trans (by rw [resetEngine, hlop])⟩
  · have hstep := (step_commandThenReset hs hhost).trans (wordOutcome_illegal hw _)
    obtain ⟨⟨-, hlop⟩, -⟩ := hs
    refine ⟨Config.resetCmd, 0x00#8, hstep.trans ?_⟩
    cases n with
    | zero => simp [moves, resetEngine, accept, hlop]
    | succ n =>
      rw [moves_illegalWord rfl hw]
      simp [resetEngine, respond, accept, hlop]

/-- Settles O15: an idle engine has no move to make, and without a request nothing to accept. -/
theorem idleRests : Obligations.IdleRests := by
  rintro s ⟨hs, hbusy⟩ hhost
  simp [step, fetch_of_atHost hs, fetchHost, hhost, hbusy]

end Sys2Proof
end

section
/-! PROOFS. What every command costs (70_reset_and_hazards.md, sections 4 and 5): the rising clock
edges of its sequences, its line ops, samples and delay (R165), and `READ` with nothing pending
(R163). -/

namespace Sys2Proof

open Machine

/-! Rising edges of the sequences, by the clock they are entered with. -/

section edges

variable (l : Lines) (d : Nat) (b : Nat → Bool) (k : Nat)

theorem risingEdges_eventsOf_append (xs ys : List LineOp) :
    risingEdges l (eventsOf d b k (xs ++ ys)) = risingEdges l (eventsOf d b k xs) +
      risingEdges (l.afterOps xs) (eventsOf d b (k + samplesIn xs) ys) := by
  rw [risingEdges, sdaAtEdges_eventsOf_append, List.length_append, risingEdges, risingEdges]

/-- `RELEASE_BOTH` releases a clock that is asserted (R90). -/
theorem risingEdges_releaseBothOps :
    risingEdges l (eventsOf d b k releaseBothOps) = if l.scl = .assertedLow then 1 else 0 := by
  obtain ⟨scl, sda⟩ := l
  cases scl <;> rfl

/-- `START` releases the clock in its `RELEASE_BOTH` only (R91). -/
theorem risingEdges_startOps :
    risingEdges l (eventsOf d b k startOps) = if l.scl = .assertedLow then 1 else 0 := by
  obtain ⟨scl, sda⟩ := l
  cases scl <;> rfl

variable {l}

theorem risingEdges_stopOps (hl : l.scl = .assertedLow) :
    risingEdges l (eventsOf d b k stopOps) = 1 := by
  obtain ⟨scl, sda⟩ := l
  cases hl
  rfl

theorem risingEdges_writeBitOps (hl : l.scl = .assertedLow) (bit : Bool) :
    risingEdges l (eventsOf d b k (writeBitOps bit)) = 1 :=
  congrArg List.length (sdaAtEdges_writeBitOps d b k hl bit)

theorem risingEdges_writeByteOps (hl : l.scl = .assertedLow) (v : Byte) :
    risingEdges l (eventsOf d b k (writeByteOps v)) = 9 :=
  congrArg List.length (sdaAtEdges_writeByteOps d b k hl v)

theorem risingEdges_readByteOps (hl : l.scl = .assertedLow) :
    risingEdges l (eventsOf d b k readByteOps) = 8 := by
  obtain ⟨scl, sda⟩ := l
  cases hl
  rfl

/-- The address frame: the edge of its START, if it makes one, and the nine of its byte. -/
theorem risingEdges_addressOps (l : Lines) (a : Addr) (rw : Bool) :
    risingEdges l (eventsOf d b k (addressOps a rw)) =
      9 + (if l.scl = .assertedLow then 1 else 0) := by
  rw [addressOps, risingEdges_eventsOf_append, risingEdges_startOps,
    risingEdges_writeByteOps _ _ _ (by rw [startOps_after]), Nat.add_comm]

/-- A byte read and acknowledged: eight edges and one. -/
theorem risingEdges_readByteOps_writeBitOps (hl : l.scl = .assertedLow) (bit : Bool) :
    risingEdges l (eventsOf d b k (readByteOps ++ writeBitOps bit)) = 9 := by
  rw [risingEdges_eventsOf_append, risingEdges_readByteOps d b k hl,
    risingEdges_writeBitOps _ _ _ (by rw [readByteOps_after])]

/-- A byte read, not acknowledged, and a STOP. -/
theorem risingEdges_readByteOps_stop (hl : l.scl = .assertedLow) :
    risingEdges l (eventsOf d b k (readByteOps ++ writeBitOps true ++ stopOps)) = 10 := by
  rw [risingEdges_eventsOf_append, risingEdges_readByteOps_writeBitOps d b k hl,
    risingEdges_stopOps _ _ _ (by rw [afterOps_append, writeBitOps_after])]

end edges

/-! The cost of a command is the cost of its line ops. -/

/-- A response is no edge. -/
theorem sdaAtEdges_response (l : Lines) (v : Byte) (err : Bool) :
    sdaAtEdges l [.response v err] = [] := by
  obtain ⟨scl, sda⟩ := l
  cases scl <;> rfl

theorem sdaAtEdges_addedEvents (i : Instr) (v : Byte) (s : State) :
    sdaAtEdges (linesOf s) (addedEvents i v s) = sdaAtEdges (linesOf s)
      (eventsFrom s (commandOps i s.pendingByteCount s.stopOnCompletion)) := by
  rw [addedEvents, sdaAtEdges_append, sdaAtEdges_response, List.append_nil]

/-- A response takes no delay. -/
theorem totalDelay_addedEvents (i : Instr) (v : Byte) (s : State) :
    totalDelay (addedEvents i v s) =
      totalDelay (eventsFrom s (commandOps i s.pendingByteCount s.stopOnCompletion)) :=
  totalDelay_append _ _

/-- A command that performs the line ops `ops`, `setters` of them setters, costs what these do. -/
theorem exec_costs {i : Instr} {s t : State} {ops : List LineOp} (setters : Nat)
    (ht : exec i s = .next t) (hi : i.hostIssuable = true)
    (hops : commandOps i s.pendingByteCount s.stopOnCompletion = ops)
    (hsetters : samplesIn ops + setters = ops.length) :
    ∃ evs, t.trace = s.trace ++ evs ∧ opsOf evs = ops ∧ sampleCount evs = samplesIn ops ∧
      totalDelay evs = setters * s.cfg.bitDelayMicros ∧
      risingEdges (linesOf s) evs = risingEdges (linesOf s) (eventsFrom s ops) := by
  rw [exec_eq_leaves hi] at ht
  cases ht
  subst hops
  exact ⟨_, leaves_trace .., opsOf_addedEvents .., sampleCount_addedEvents ..,
    (totalDelay_addedEvents ..).trans (totalDelay_eventsFrom s _ setters hsetters),
    congrArg List.length (sdaAtEdges_addedEvents ..)⟩

/-- Without a STOP to follow, what stands after the byte of a `READ` is one sent bit, the ACK or the
NACK (R124). -/
theorem readTailOps_eq_writeBitOps {pending : Byte} {stop : Bool}
    (h : pending ≠ 0x00#8 ∨ stop = false) :
    readTailOps pending stop = writeBitOps (pending == 0x00#8) := by
  by_cases hzero : pending = 0x00#8
  · obtain rfl : stop = false := h.resolve_left (not_not_intro hzero)
    subst hzero
    rfl
  · rw [readTailOps_of_ne hzero, beq_false_of_ne hzero, sendAckOps_eq_writeBitOps]

theorem commandOps_read_last {pending : Byte} {stop : Bool} (h : pending = 1 ∧ stop = true) :
    commandOps .read pending stop = readByteOps ++ writeBitOps true ++ stopOps := by
  obtain ⟨rfl, rfl⟩ := h
  rfl

theorem commandOps_read_without_stop {pending : Byte} {stop : Bool} (h : pending ≠ 0)
    (hlast : ¬ (pending = 1 ∧ stop = true)) :
    commandOps .read pending stop = readByteOps ++ writeBitOps (pending - 1#8 == 0x00#8) := by
  rw [commandOps_read_of_pending h, readTailOps_eq_writeBitOps]
  by_cases hone : pending = 1
  · exact .inr (by simpa [hone] using hlast)
  · exact .inl (by bv_omega)

/-! The obligations. -/

/-- Settles O41: nothing pending is the first branch of `READ`. -/
theorem readSentinel : Obligations.ReadSentinel := fun _ h => if_pos h

/-- Settles O48: the cost of each command is that of its line ops; for `READ` these are given by the
count and the stop bit. -/
theorem commandCosts : Obligations.CommandCosts := by
  refine ⟨fun i s t ht => ?_,
    fun s w rest hs hhost hw => ⟨_, step_illegalWord hs hhost hw, rfl⟩⟩
  cases i with
  | cmdBegin | cmdEnd =>
    obtain ⟨evs, htrace, hops, hsamples, hdelay, hedges⟩ := exec_costs 2 ht rfl rfl rfl
    exact ⟨evs, htrace, congrArg List.length hops, hsamples, hdelay,
      hedges.trans (risingEdges_releaseBothOps ..)⟩
  | beginTx a | requestFrom a q p =>
    obtain ⟨evs, htrace, hops, hsamples, hdelay, hedges⟩ := exec_costs 31 ht rfl rfl
      (by simp [commandOps, addressOps])
    exact ⟨evs, htrace, congrArg List.length hops,
      hsamples.trans (by simp [commandOps, addressOps]), hdelay,
      hedges.trans (risingEdges_addressOps ..)⟩
  | write v =>
    obtain ⟨evs, htrace, hops, hsamples, hdelay, hedges⟩ := exec_costs 27 ht rfl rfl
      (by rw [commandOps, writeByteOps_samples, writeByteOps_length])
    exact ⟨evs, htrace, congrArg List.length hops, hsamples.trans (writeByteOps_samples v), hdelay,
      fun hl => hedges.trans (risingEdges_writeByteOps _ _ _ hl v)⟩
  | endTx p =>
    cases p with
    | true =>
      obtain ⟨evs, htrace, hops, hsamples, hdelay, hedges⟩ := exec_costs 3 ht rfl rfl rfl
      exact ⟨evs, htrace, congrArg List.length hops, hsamples, hdelay,
        fun hl => hedges.trans (risingEdges_stopOps _ _ _ hl)⟩
    | false =>
      obtain ⟨evs, htrace, hops, hsamples, hdelay, hedges⟩ := exec_costs 0 ht rfl rfl rfl
      exact ⟨evs, htrace, hops, hsamples, hdelay.trans (Nat.zero_mul _), hedges⟩
  | read =>
    dsimp only
    split_ifs with hzero hlast
    · obtain ⟨evs, htrace, hops, hsamples, hdelay, hedges⟩ := exec_costs 0 ht rfl
        (commandOps_read_of_nothing_pending hzero) rfl
      exact ⟨evs, htrace, hops, hsamples, hdelay.trans (Nat.zero_mul _), hedges⟩
    · obtain ⟨evs, htrace, hops, hsamples, hdelay, hedges⟩ := exec_costs 23 ht rfl
        (commandOps_read_last hlast) rfl
      exact ⟨evs, htrace, congrArg List.length hops, hsamples, hdelay,
        fun hl => hedges.trans (risingEdges_readByteOps_stop _ _ _ hl)⟩
    · obtain ⟨evs, htrace, hops, hsamples, hdelay, hedges⟩ := exec_costs 20 ht rfl
        (commandOps_read_without_stop hzero hlast) (by simp)
      exact ⟨evs, htrace, congrArg List.length hops, hsamples.trans (by simp), hdelay,
        fun hl => hedges.trans (risingEdges_readByteOps_writeBitOps _ _ _ hl _)⟩
  | releaseClock | assertClockLow | releaseData | assertDataLow | readData =>
    cases ht
    exact ⟨_, rfl, rfl, rfl, rfl⟩

end Sys2Proof
end

section
/-! PROOFS. Words and codes both ways: a command word that decodes is a packed word of its fields
(R55, R60) and so the word of its instruction (R58); the bits of a table row as a number (R63); and the
instruction whose bits are placed for the next step. -/

namespace Sys2Proof

open Machine

/-! A word that decodes is an encoding. -/

@[simp] theorem rsvField_packCommand (op : BitVec 4) (s : Bool) (a : Addr) (d : Byte) :
    rsvField (packCommand op s a d) = 0#3 := by
  apply BitVec.eq_of_getLsbD_eq
  intro i hi
  rw [rsvField, BitVec.getLsbD_extractLsb', getLsbD_packCommand, if_neg (by omega),
    if_neg (by omega), if_neg (by omega), if_neg (by omega), if_pos (by omega)]
  simp

@[simp] theorem zField_packCommand (op : BitVec 4) (s : Bool) (a : Addr) (d : Byte) :
    zField (packCommand op s a d) = false :=
  getLsbD_packCommand op s a d 15

/-- A word is packed from its fields when RSV and Z are zero (R55). -/
theorem packCommand_eq_iff {op : BitVec 4} {s : Bool} {a : Addr} {d : Byte} {w : CmdWord} :
    packCommand op s a d = w ↔
      opField w = op ∧ rsvField w = 0#3 ∧ zField w = false ∧ stopField w = s ∧ addrField w = a ∧
        dataField w = d := by
  rw [eq_comm, word_eq_iff_fields, opField_packCommand, rsvField_packCommand, zField_packCommand,
    stopField_packCommand, addrField_packCommand, dataField_packCommand]

/-- A word that matches a row is the word of a command: that of the row, with the fields of the word
as operands (R58, R60). -/
theorem exists_encodeCommand_of_hits {r : Row} {w : CmdWord} (hr : r ∈ commandRows)
    (h : r.hits w = true) : ∃ i, encodeCommand i = some w := by
  obtain ⟨hop, hrsv, hz, hstop, haddr, hdata⟩ := (hits_iff_fields hr w).mp h
  have noStop := hstop.resolve_right
  have noAddr := haddr.resolve_right
  have noData := hdata.resolve_right
  have packed {s : Bool} {a : Addr} {d : Byte} (hs : stopField w = s) (ha : addrField w = a)
      (hd : dataField w = d) : some (packCommand (opField r.pattern) s a d) = some w :=
    congrArg some (packCommand_eq_iff.mpr ⟨hop, hrsv, hz, hs, ha, hd⟩)
  simp only [commandRows, List.mem_cons, List.not_mem_nil, or_false] at hr
  obtain rfl | rfl | rfl | rfl | rfl | rfl | rfl := hr
  · exact ⟨.cmdBegin, packed (noStop (by decide)) (noAddr (by decide)) (noData (by decide))⟩
  · exact ⟨.cmdEnd, packed (noStop (by decide)) (noAddr (by decide)) (noData (by decide))⟩
  · exact ⟨.beginTx (addrField w), packed (noStop (by decide)) rfl (noData (by decide))⟩
  · exact ⟨.write (dataField w), packed (noStop (by decide)) (noAddr (by decide)) rfl⟩
  · exact ⟨.endTx (stopField w), packed rfl (noAddr (by decide)) (noData (by decide))⟩
  · exact ⟨.requestFrom (addrField w) (dataField w) (stopField w), packed rfl rfl rfl⟩
  · exact ⟨.read, packed (noStop (by decide)) (noAddr (by decide)) (noData (by decide))⟩

/-- The word that decodes to a command is the word of that command, since it is the word of some
command and that one is what it decodes to. -/
theorem encodeCommand_of_decodeCommand {w : CmdWord} {i : Instr} (h : decodeCommand w = some i) :
    encodeCommand i = some w := by
  obtain ⟨r, hr, hhit⟩ := (decodeCommand_ne_none_iff w).mp (by simp [h])
  obtain ⟨i', hi'⟩ := exists_encodeCommand_of_hits hr hhit
  obtain rfl : i = i' := Option.some.inj (h.symm.trans (decodeCommand_of_encodeCommand hi'))
  exact hi'

/-- The code that decodes to a line op is the code of that line op (R64, R65). -/
theorem encodeLop_of_decodeLop {c : LopCode} {i : Instr} (h : decodeLop c = some i) :
    encodeLop i = some c := by
  have codes : ∀ c : LopCode, ∀ i ∈ decodeLop c, encodeLop i = some c := by decide
  exact codes c i h

/-- The host cannot issue an instruction that has a line-op code (R71). -/
theorem hostIssuable_of_encodeLop {i : Instr} {c : LopCode} (h : encodeLop i = some c) :
    i.hostIssuable = false := by
  obtain ⟨-, hnone, -⟩ | ⟨hi, -⟩ := rowMatch i
  · rw [hnone] at h
    cases h
  · exact hi

/-! The bits of a table row as a number. -/

@[simp] theorem commandOfNat_toNat (w : CmdWord) : commandOfNat w.toNat = w := by
  simp [commandOfNat, w.isLt]

@[simp] theorem lopOfNat_toNat (c : LopCode) : lopOfNat c.toNat = c := by
  simp [lopOfNat, c.isLt]

theorem encodeTableWord_of_encodeCommand {i : Instr} {w : CmdWord} (h : encodeCommand i = some w) :
    encodeTableWord i = (24, w.toNat) := by
  simp [encodeTableWord, h]

theorem encodeTableWord_of_encodeLop {i : Instr} {c : LopCode} (hw : encodeCommand i = none)
    (hc : encodeLop i = some c) : encodeTableWord i = (3, c.toNat) := by
  simp [encodeTableWord, hw, hc]

theorem decodeTableWord_of_le {nbits : Nat} (h : nbits ≤ 8) (w : Nat) :
    decodeTableWord nbits w = decodeLop (lopOfNat w) := by
  simp [decodeTableWord, isLopWidth, h]

theorem decodeTableWord_of_not_le {nbits : Nat} (h : ¬ nbits ≤ 8) (w : Nat) :
    decodeTableWord nbits w = decodeCommand (commandOfNat w) := by
  simp [decodeTableWord, isLopWidth, h]

/-- A number of more than 24 bits stands for no legal word. -/
theorem commandOfNat_of_decodeCommand {w : Nat} {i : Instr}
    (h : decodeCommand (commandOfNat w) = some i) : commandOfNat w = BitVec.ofNat 24 w := by
  by_cases hw : w < 2 ^ 24
  · exact if_pos hw
  · have hnone : decodeCommand 0x000000#24 = none := by decide
    rw [commandOfNat, if_neg hw, hnone] at h
    cases h

/-! The obligations. -/

/-- Settles O2: an instruction has a command word or a line-op code; either is read back from its
number and decodes to it. -/
theorem decodeOfEncode : Obligations.DecodeOfEncode := by
  intro i
  obtain ⟨-, -, w, hw, -⟩ | ⟨-, hnone, c, hc⟩ := rowMatch i
  · rw [encodeTableWord_of_encodeCommand hw, decodeTableWord_of_not_le (by simp),
      commandOfNat_toNat, decodeCommand_of_encodeCommand hw]
  · rw [encodeTableWord_of_encodeLop hnone hc, decodeTableWord_of_le (by simp), lopOfNat_toNat,
      decodeLop_of_encodeLop hc]

/-- Settles O3: what decodes is an encoding, and only commands have words, only line ops codes. -/
theorem decodedWordIsEncoding : Obligations.DecodedWordIsEncoding := by
  refine ⟨fun w i h => ?_, fun c i h => ?_⟩
  · have hw := encodeCommand_of_decodeCommand h
    exact ⟨hw, hostIssuable_of_encodeCommand hw⟩
  · have hc := encodeLop_of_decodeLop h
    exact ⟨hc, hostIssuable_of_encodeLop hc⟩

/-- Settles O12: a code is placed on the line driver's interface, which a step looks at first; a
word at the head of the requests of an idle engine, which accepts it. -/
theorem placedWordRuns : Obligations.PlacedWordRuns := by
  intro s nbits w i hpins hdecode
  by_cases hn : nbits ≤ 8
  · rw [decodeTableWord_of_le hn] at hdecode
    have hplace : s.withFetchWord nbits w = { s with lopIn := some (lopOfNat w) } := by
      simp [State.withFetchWord, placeWord, isLopWidth, hn]
    rw [hplace, if_pos hn]
    exact stepRunsLineOp _ _ i hpins rfl hdecode
  · rw [decodeTableWord_of_not_le hn] at hdecode
    have hplace : s.withFetchWord nbits w = { s with
        lopIn := none, busy := false, hostIn := .command (commandOfNat w) :: s.hostIn } := by
      simp [State.withFetchWord, placeWord, isLopWidth, hn]
    rw [hplace, if_neg hn, ← commandOfNat_of_decodeCommand hdecode]
    exact stepRunsDecodedCommand _ _ s.hostIn i ⟨⟨hpins, rfl⟩, rfl⟩ rfl hdecode

/-- Settles O1: each word is decoded as it stands. -/
theorem tableWordsDecode : Obligations.TableWordsDecode := by
  unfold Obligations.TableWordsDecode
  decide

end Sys2Proof
end
